-- ==== Sys2Proof/Word.lean ====
section
/-! DEFINITION. The machine's word types (00_scope.md R10) and the type of every byte array:
a list of (index, entry) pairs.  The operations on them are in Machine/Memory.lean. -/

namespace Sys2Proof

/-- A Byte, 0..255, wrapping (00_scope.md R10). -/
abbrev Byte := BitVec 8

/-- A Word, 0..65535, wrapping (00_scope.md R10): CPU addresses and the program counter. -/
abbrev Word := BitVec 16

/-- A PPU address, 14 bits (20_memory.md R80). -/
abbrev VAddr := BitVec 14

/-- An array of `w`-bit entries by index, in one canonical form (`Cells.wf`): indices strictly
rising, no entry 0, an unlisted index reads 0. -/
abbrev Cells (w : Nat) := List (Nat × BitVec w)

/-- A byte array: `Cells 8`, written with the host's cell type. -/
abbrev Memory := List Host.Cell

end Sys2Proof
end

