-- ==== Sys2Proof/Syntax.lean ====
section
/-! DEFINITION. The instruction set: one constructor per row of spec/opcode_table.json, in the order
of 30_encoding.md R140.  The name is the mnemonic followed by the addressing mode where the mnemonic
has more than one row; the operand is what the mode's operand bytes hold (30_encoding.md R130, R132):
`v` an immediate, `z` a page-zero byte, `d` a branch displacement, `a` a 16-bit operand. -/

namespace Sys2Proof

/-- The 151 documented instructions (00_scope.md R2, 30_encoding.md R140). -/
inductive Instr where
  -- LDA, R170
  | ldaImm (v : Byte)
  | ldaZp (z : Byte)
  | ldaZpx (z : Byte)
  | ldaAbs (a : Word)
  | ldaAbx (a : Word)
  | ldaAby (a : Word)
  | ldaIzx (z : Byte)
  | ldaIzy (z : Byte)
  -- LDX, R171
  | ldxImm (v : Byte)
  | ldxZp (z : Byte)
  | ldxZpy (z : Byte)
  | ldxAbs (a : Word)
  | ldxAby (a : Word)
  -- LDY, R172
  | ldyImm (v : Byte)
  | ldyZp (z : Byte)
  | ldyZpx (z : Byte)
  | ldyAbs (a : Word)
  | ldyAbx (a : Word)
  -- STA, R173
  | staZp (z : Byte)
  | staZpx (z : Byte)
  | staAbs (a : Word)
  | staAbx (a : Word)
  | staAby (a : Word)
  | staIzx (z : Byte)
  | staIzy (z : Byte)
  -- STX, R174
  | stxZp (z : Byte)
  | stxZpy (z : Byte)
  | stxAbs (a : Word)
  -- STY, R175
  | styZp (z : Byte)
  | styZpx (z : Byte)
  | styAbs (a : Word)
  -- TAX, R180
  | tax
  -- TAY, R181
  | tay
  -- TXA, R182
  | txa
  -- TYA, R183
  | tya
  -- TSX, R184
  | tsx
  -- TXS, R185
  | txs
  -- PHA, R190
  | pha
  -- PHP, R191
  | php
  -- PLA, R192
  | pla
  -- PLP, R193
  | plp
  -- AND, R200
  | andImm (v : Byte)
  | andZp (z : Byte)
  | andZpx (z : Byte)
  | andAbs (a : Word)
  | andAbx (a : Word)
  | andAby (a : Word)
  | andIzx (z : Byte)
  | andIzy (z : Byte)
  -- ORA, R201
  | oraImm (v : Byte)
  | oraZp (z : Byte)
  | oraZpx (z : Byte)
  | oraAbs (a : Word)
  | oraAbx (a : Word)
  | oraAby (a : Word)
  | oraIzx (z : Byte)
  | oraIzy (z : Byte)
  -- EOR, R202
  | eorImm (v : Byte)
  | eorZp (z : Byte)
  | eorZpx (z : Byte)
  | eorAbs (a : Word)
  | eorAbx (a : Word)
  | eorAby (a : Word)
  | eorIzx (z : Byte)
  | eorIzy (z : Byte)
  -- BIT, R203
  | bitZp (z : Byte)
  | bitAbs (a : Word)
  -- ADC, R210
  | adcImm (v : Byte)
  | adcZp (z : Byte)
  | adcZpx (z : Byte)
  | adcAbs (a : Word)
  | adcAbx (a : Word)
  | adcAby (a : Word)
  | adcIzx (z : Byte)
  | adcIzy (z : Byte)
  -- SBC, R211
  | sbcImm (v : Byte)
  | sbcZp (z : Byte)
  | sbcZpx (z : Byte)
  | sbcAbs (a : Word)
  | sbcAbx (a : Word)
  | sbcAby (a : Word)
  | sbcIzx (z : Byte)
  | sbcIzy (z : Byte)
  -- CMP, R212
  | cmpImm (v : Byte)
  | cmpZp (z : Byte)
  | cmpZpx (z : Byte)
  | cmpAbs (a : Word)
  | cmpAbx (a : Word)
  | cmpAby (a : Word)
  | cmpIzx (z : Byte)
  | cmpIzy (z : Byte)
  -- CPX, R213
  | cpxImm (v : Byte)
  | cpxZp (z : Byte)
  | cpxAbs (a : Word)
  -- CPY, R214
  | cpyImm (v : Byte)
  | cpyZp (z : Byte)
  | cpyAbs (a : Word)
  -- INC, R220
  | incZp (z : Byte)
  | incZpx (z : Byte)
  | incAbs (a : Word)
  | incAbx (a : Word)
  -- DEC, R221
  | decZp (z : Byte)
  | decZpx (z : Byte)
  | decAbs (a : Word)
  | decAbx (a : Word)
  -- INX, R222
  | inx
  -- INY, R223
  | iny
  -- DEX, R224
  | dex
  -- DEY, R225
  | dey
  -- ASL, R230
  | aslAcc
  | aslZp (z : Byte)
  | aslZpx (z : Byte)
  | aslAbs (a : Word)
  | aslAbx (a : Word)
  -- LSR, R231
  | lsrAcc
  | lsrZp (z : Byte)
  | lsrZpx (z : Byte)
  | lsrAbs (a : Word)
  | lsrAbx (a : Word)
  -- ROL, R232
  | rolAcc
  | rolZp (z : Byte)
  | rolZpx (z : Byte)
  | rolAbs (a : Word)
  | rolAbx (a : Word)
  -- ROR, R233
  | rorAcc
  | rorZp (z : Byte)
  | rorZpx (z : Byte)
  | rorAbs (a : Word)
  | rorAbx (a : Word)
  -- JMP, R240
  | jmpAbs (a : Word)
  | jmpInd (a : Word)
  -- JSR, R242
  | jsr (a : Word)
  -- RTS, R243
  | rts
  -- BCC, R245
  | bcc (d : Byte)
  -- BCS, R246
  | bcs (d : Byte)
  -- BEQ, R247
  | beq (d : Byte)
  -- BNE, R248
  | bne (d : Byte)
  -- BMI, R249
  | bmi (d : Byte)
  -- BPL, R250
  | bpl (d : Byte)
  -- BVC, R251
  | bvc (d : Byte)
  -- BVS, R252
  | bvs (d : Byte)
  -- CLC, R260
  | clc
  -- SEC, R261
  | sec
  -- CLI, R262
  | cli
  -- SEI, R263
  | sei
  -- CLD, R264
  | cld
  -- SED, R265
  | sed
  -- CLV, R266
  | clv
  -- BRK, R270
  | brk
  -- RTI, R271
  | rti
  -- NOP, R272
  | nop
  deriving DecidableEq, Repr

end Sys2Proof
end

