-- ==== Sys2Proof/Decode.lean ====
section
/-! DEFINITION. Decoding and encoding (30_encoding.md).  The opcode byte alone selects the operation,
the mode and the length (R130); decoding is a lookup in the opcode table (R140, R148); an opcode
outside it is undefined (R144). -/

namespace Sys2Proof

/-- `hi ++ lo`, the Word of two Bytes (00_scope.md R11). -/
def wordOf (hi lo : Byte) : Word := hi ++ lo

/-- `w[7:0]` (00_scope.md R11). -/
def loByte (w : Word) : Byte := w.extractLsb' 0 8

/-- `w[15:8]` (00_scope.md R11). -/
def hiByte (w : Word) : Byte := w.extractLsb' 8 8

/-- The instruction a row of the opcode table stands for, by its format (30_encoding.md R130): F1
alone, F2 given its operand byte, F3 given its operand word. -/
inductive OpForm where
  | f1 (i : Instr)
  | f2 (build : Byte → Instr)
  | f3 (build : Word → Instr)

/-- The length in bytes of a format (30_encoding.md R130). -/
def OpForm.length : OpForm → Nat
  | .f1 _ => 1
  | .f2 _ => 2
  | .f3 _ => 3

/-- A row of the opcode table: the opcode byte and what it stands for. -/
structure OpRow where
  opcode : Byte
  form : OpForm

/-- Rows of 30_encoding.md R140: loads and stores, 40_load_store.md. -/
def loadStoreRows : List OpRow := [
  ⟨0xA9#8, .f2 .ldaImm⟩, ⟨0xA5#8, .f2 .ldaZp⟩, ⟨0xB5#8, .f2 .ldaZpx⟩, ⟨0xAD#8, .f3 .ldaAbs⟩,
  ⟨0xBD#8, .f3 .ldaAbx⟩, ⟨0xB9#8, .f3 .ldaAby⟩, ⟨0xA1#8, .f2 .ldaIzx⟩, ⟨0xB1#8, .f2 .ldaIzy⟩,
  ⟨0xA2#8, .f2 .ldxImm⟩, ⟨0xA6#8, .f2 .ldxZp⟩, ⟨0xB6#8, .f2 .ldxZpy⟩, ⟨0xAE#8, .f3 .ldxAbs⟩,
  ⟨0xBE#8, .f3 .ldxAby⟩, ⟨0xA0#8, .f2 .ldyImm⟩, ⟨0xA4#8, .f2 .ldyZp⟩, ⟨0xB4#8, .f2 .ldyZpx⟩,
  ⟨0xAC#8, .f3 .ldyAbs⟩, ⟨0xBC#8, .f3 .ldyAbx⟩, ⟨0x85#8, .f2 .staZp⟩, ⟨0x95#8, .f2 .staZpx⟩,
  ⟨0x8D#8, .f3 .staAbs⟩, ⟨0x9D#8, .f3 .staAbx⟩, ⟨0x99#8, .f3 .staAby⟩, ⟨0x81#8, .f2 .staIzx⟩,
  ⟨0x91#8, .f2 .staIzy⟩, ⟨0x86#8, .f2 .stxZp⟩, ⟨0x96#8, .f2 .stxZpy⟩, ⟨0x8E#8, .f3 .stxAbs⟩,
  ⟨0x84#8, .f2 .styZp⟩, ⟨0x94#8, .f2 .styZpx⟩, ⟨0x8C#8, .f3 .styAbs⟩]

/-- Rows of 30_encoding.md R140: transfers and stack, 41_transfer.md and 42_stack.md. -/
def transferStackRows : List OpRow := [
  ⟨0xAA#8, .f1 .tax⟩, ⟨0xA8#8, .f1 .tay⟩, ⟨0x8A#8, .f1 .txa⟩, ⟨0x98#8, .f1 .tya⟩,
  ⟨0xBA#8, .f1 .tsx⟩, ⟨0x9A#8, .f1 .txs⟩, ⟨0x48#8, .f1 .pha⟩, ⟨0x08#8, .f1 .php⟩,
  ⟨0x68#8, .f1 .pla⟩, ⟨0x28#8, .f1 .plp⟩]

/-- Rows of 30_encoding.md R140: logic, 43_logic.md. -/
def logicRows : List OpRow := [
  ⟨0x29#8, .f2 .andImm⟩, ⟨0x25#8, .f2 .andZp⟩, ⟨0x35#8, .f2 .andZpx⟩, ⟨0x2D#8, .f3 .andAbs⟩,
  ⟨0x3D#8, .f3 .andAbx⟩, ⟨0x39#8, .f3 .andAby⟩, ⟨0x21#8, .f2 .andIzx⟩, ⟨0x31#8, .f2 .andIzy⟩,
  ⟨0x09#8, .f2 .oraImm⟩, ⟨0x05#8, .f2 .oraZp⟩, ⟨0x15#8, .f2 .oraZpx⟩, ⟨0x0D#8, .f3 .oraAbs⟩,
  ⟨0x1D#8, .f3 .oraAbx⟩, ⟨0x19#8, .f3 .oraAby⟩, ⟨0x01#8, .f2 .oraIzx⟩, ⟨0x11#8, .f2 .oraIzy⟩,
  ⟨0x49#8, .f2 .eorImm⟩, ⟨0x45#8, .f2 .eorZp⟩, ⟨0x55#8, .f2 .eorZpx⟩, ⟨0x4D#8, .f3 .eorAbs⟩,
  ⟨0x5D#8, .f3 .eorAbx⟩, ⟨0x59#8, .f3 .eorAby⟩, ⟨0x41#8, .f2 .eorIzx⟩, ⟨0x51#8, .f2 .eorIzy⟩,
  ⟨0x24#8, .f2 .bitZp⟩, ⟨0x2C#8, .f3 .bitAbs⟩]

/-- Rows of 30_encoding.md R140: arithmetic and compare, 44_arithmetic_compare.md. -/
def arithmeticRows : List OpRow := [
  ⟨0x69#8, .f2 .adcImm⟩, ⟨0x65#8, .f2 .adcZp⟩, ⟨0x75#8, .f2 .adcZpx⟩, ⟨0x6D#8, .f3 .adcAbs⟩,
  ⟨0x7D#8, .f3 .adcAbx⟩, ⟨0x79#8, .f3 .adcAby⟩, ⟨0x61#8, .f2 .adcIzx⟩, ⟨0x71#8, .f2 .adcIzy⟩,
  ⟨0xE9#8, .f2 .sbcImm⟩, ⟨0xE5#8, .f2 .sbcZp⟩, ⟨0xF5#8, .f2 .sbcZpx⟩, ⟨0xED#8, .f3 .sbcAbs⟩,
  ⟨0xFD#8, .f3 .sbcAbx⟩, ⟨0xF9#8, .f3 .sbcAby⟩, ⟨0xE1#8, .f2 .sbcIzx⟩, ⟨0xF1#8, .f2 .sbcIzy⟩,
  ⟨0xC9#8, .f2 .cmpImm⟩, ⟨0xC5#8, .f2 .cmpZp⟩, ⟨0xD5#8, .f2 .cmpZpx⟩, ⟨0xCD#8, .f3 .cmpAbs⟩,
  ⟨0xDD#8, .f3 .cmpAbx⟩, ⟨0xD9#8, .f3 .cmpAby⟩, ⟨0xC1#8, .f2 .cmpIzx⟩, ⟨0xD1#8, .f2 .cmpIzy⟩,
  ⟨0xE0#8, .f2 .cpxImm⟩, ⟨0xE4#8, .f2 .cpxZp⟩, ⟨0xEC#8, .f3 .cpxAbs⟩, ⟨0xC0#8, .f2 .cpyImm⟩,
  ⟨0xC4#8, .f2 .cpyZp⟩, ⟨0xCC#8, .f3 .cpyAbs⟩]

/-- Rows of 30_encoding.md R140: increment and decrement, 45_incdec.md. -/
def incDecRows : List OpRow := [
  ⟨0xE6#8, .f2 .incZp⟩, ⟨0xF6#8, .f2 .incZpx⟩, ⟨0xEE#8, .f3 .incAbs⟩, ⟨0xFE#8, .f3 .incAbx⟩,
  ⟨0xC6#8, .f2 .decZp⟩, ⟨0xD6#8, .f2 .decZpx⟩, ⟨0xCE#8, .f3 .decAbs⟩, ⟨0xDE#8, .f3 .decAbx⟩,
  ⟨0xE8#8, .f1 .inx⟩, ⟨0xC8#8, .f1 .iny⟩, ⟨0xCA#8, .f1 .dex⟩, ⟨0x88#8, .f1 .dey⟩]

/-- Rows of 30_encoding.md R140: shifts and rotates, 46_shift_rotate.md. -/
def shiftRows : List OpRow := [
  ⟨0x0A#8, .f1 .aslAcc⟩, ⟨0x06#8, .f2 .aslZp⟩, ⟨0x16#8, .f2 .aslZpx⟩, ⟨0x0E#8, .f3 .aslAbs⟩,
  ⟨0x1E#8, .f3 .aslAbx⟩, ⟨0x4A#8, .f1 .lsrAcc⟩, ⟨0x46#8, .f2 .lsrZp⟩, ⟨0x56#8, .f2 .lsrZpx⟩,
  ⟨0x4E#8, .f3 .lsrAbs⟩, ⟨0x5E#8, .f3 .lsrAbx⟩, ⟨0x2A#8, .f1 .rolAcc⟩, ⟨0x26#8, .f2 .rolZp⟩,
  ⟨0x36#8, .f2 .rolZpx⟩, ⟨0x2E#8, .f3 .rolAbs⟩, ⟨0x3E#8, .f3 .rolAbx⟩, ⟨0x6A#8, .f1 .rorAcc⟩,
  ⟨0x66#8, .f2 .rorZp⟩, ⟨0x76#8, .f2 .rorZpx⟩, ⟨0x6E#8, .f3 .rorAbs⟩, ⟨0x7E#8, .f3 .rorAbx⟩]

/-- Rows of 30_encoding.md R140: jumps and branches, 47_jump_branch.md. -/
def jumpRows : List OpRow := [
  ⟨0x4C#8, .f3 .jmpAbs⟩, ⟨0x6C#8, .f3 .jmpInd⟩, ⟨0x20#8, .f3 .jsr⟩, ⟨0x60#8, .f1 .rts⟩,
  ⟨0x90#8, .f2 .bcc⟩, ⟨0xB0#8, .f2 .bcs⟩, ⟨0xF0#8, .f2 .beq⟩, ⟨0xD0#8, .f2 .bne⟩,
  ⟨0x30#8, .f2 .bmi⟩, ⟨0x10#8, .f2 .bpl⟩, ⟨0x50#8, .f2 .bvc⟩, ⟨0x70#8, .f2 .bvs⟩]

/-- Rows of 30_encoding.md R140: flag and system instructions, 48_flag_ops.md and 49_system.md. -/
def flagSystemRows : List OpRow := [
  ⟨0x18#8, .f1 .clc⟩, ⟨0x38#8, .f1 .sec⟩, ⟨0x58#8, .f1 .cli⟩, ⟨0x78#8, .f1 .sei⟩,
  ⟨0xD8#8, .f1 .cld⟩, ⟨0xF8#8, .f1 .sed⟩, ⟨0xB8#8, .f1 .clv⟩, ⟨0x00#8, .f1 .brk⟩,
  ⟨0x40#8, .f1 .rti⟩, ⟨0xEA#8, .f1 .nop⟩]

/-- The opcode table (30_encoding.md R140). -/
def opcodeTable : List OpRow :=
  loadStoreRows ++ transferStackRows ++ logicRows ++ arithmeticRows ++ incDecRows ++ shiftRows ++
    jumpRows ++ flagSystemRows

/-- The row of an opcode byte; none for the 105 undefined ones (30_encoding.md R131, R144). -/
def formOf (op : Byte) : Option OpForm :=
  (opcodeTable.find? (fun r => r.opcode == op)).map (·.form)

/-- Decode the instruction at the head of a list of bytes, and give the bytes after it; none for an
undefined opcode or too few bytes.  A 16-bit operand has its low byte first (20_memory.md R81). -/
def decode (bytes : List Byte) : Option (Instr × List Byte) :=
  match bytes with
  | [] => none
  | op :: rest =>
    match formOf op, rest with
    | some (.f1 i), rest => some (i, rest)
    | some (.f2 build), b1 :: rest => some (build b1, rest)
    | some (.f3 build), b1 :: b2 :: rest => some (build (wordOf b2 b1), rest)
    | _, _ => none

/-- The bytes of a format F2 instruction (30_encoding.md R130). -/
def enc2 (op b : Byte) : List Byte := [op, b]

/-- The bytes of a format F3 instruction: the low byte of the operand first (30_encoding.md R130). -/
def enc3 (op : Byte) (a : Word) : List Byte := [op, loByte a, hiByte a]

/-- The bytes of an instruction, written from 30_encoding.md R140 and R130. -/
def encode : Instr → List Byte
  | .ldaImm v => enc2 0xA9#8 v
  | .ldaZp z => enc2 0xA5#8 z
  | .ldaZpx z => enc2 0xB5#8 z
  | .ldaAbs a => enc3 0xAD#8 a
  | .ldaAbx a => enc3 0xBD#8 a
  | .ldaAby a => enc3 0xB9#8 a
  | .ldaIzx z => enc2 0xA1#8 z
  | .ldaIzy z => enc2 0xB1#8 z
  | .ldxImm v => enc2 0xA2#8 v
  | .ldxZp z => enc2 0xA6#8 z
  | .ldxZpy z => enc2 0xB6#8 z
  | .ldxAbs a => enc3 0xAE#8 a
  | .ldxAby a => enc3 0xBE#8 a
  | .ldyImm v => enc2 0xA0#8 v
  | .ldyZp z => enc2 0xA4#8 z
  | .ldyZpx z => enc2 0xB4#8 z
  | .ldyAbs a => enc3 0xAC#8 a
  | .ldyAbx a => enc3 0xBC#8 a
  | .staZp z => enc2 0x85#8 z
  | .staZpx z => enc2 0x95#8 z
  | .staAbs a => enc3 0x8D#8 a
  | .staAbx a => enc3 0x9D#8 a
  | .staAby a => enc3 0x99#8 a
  | .staIzx z => enc2 0x81#8 z
  | .staIzy z => enc2 0x91#8 z
  | .stxZp z => enc2 0x86#8 z
  | .stxZpy z => enc2 0x96#8 z
  | .stxAbs a => enc3 0x8E#8 a
  | .styZp z => enc2 0x84#8 z
  | .styZpx z => enc2 0x94#8 z
  | .styAbs a => enc3 0x8C#8 a
  | .tax => [0xAA#8]
  | .tay => [0xA8#8]
  | .txa => [0x8A#8]
  | .tya => [0x98#8]
  | .tsx => [0xBA#8]
  | .txs => [0x9A#8]
  | .pha => [0x48#8]
  | .php => [0x08#8]
  | .pla => [0x68#8]
  | .plp => [0x28#8]
  | .andImm v => enc2 0x29#8 v
  | .andZp z => enc2 0x25#8 z
  | .andZpx z => enc2 0x35#8 z
  | .andAbs a => enc3 0x2D#8 a
  | .andAbx a => enc3 0x3D#8 a
  | .andAby a => enc3 0x39#8 a
  | .andIzx z => enc2 0x21#8 z
  | .andIzy z => enc2 0x31#8 z
  | .oraImm v => enc2 0x09#8 v
  | .oraZp z => enc2 0x05#8 z
  | .oraZpx z => enc2 0x15#8 z
  | .oraAbs a => enc3 0x0D#8 a
  | .oraAbx a => enc3 0x1D#8 a
  | .oraAby a => enc3 0x19#8 a
  | .oraIzx z => enc2 0x01#8 z
  | .oraIzy z => enc2 0x11#8 z
  | .eorImm v => enc2 0x49#8 v
  | .eorZp z => enc2 0x45#8 z
  | .eorZpx z => enc2 0x55#8 z
  | .eorAbs a => enc3 0x4D#8 a
  | .eorAbx a => enc3 0x5D#8 a
  | .eorAby a => enc3 0x59#8 a
  | .eorIzx z => enc2 0x41#8 z
  | .eorIzy z => enc2 0x51#8 z
  | .bitZp z => enc2 0x24#8 z
  | .bitAbs a => enc3 0x2C#8 a
  | .adcImm v => enc2 0x69#8 v
  | .adcZp z => enc2 0x65#8 z
  | .adcZpx z => enc2 0x75#8 z
  | .adcAbs a => enc3 0x6D#8 a
  | .adcAbx a => enc3 0x7D#8 a
  | .adcAby a => enc3 0x79#8 a
  | .adcIzx z => enc2 0x61#8 z
  | .adcIzy z => enc2 0x71#8 z
  | .sbcImm v => enc2 0xE9#8 v
  | .sbcZp z => enc2 0xE5#8 z
  | .sbcZpx z => enc2 0xF5#8 z
  | .sbcAbs a => enc3 0xED#8 a
  | .sbcAbx a => enc3 0xFD#8 a
  | .sbcAby a => enc3 0xF9#8 a
  | .sbcIzx z => enc2 0xE1#8 z
  | .sbcIzy z => enc2 0xF1#8 z
  | .cmpImm v => enc2 0xC9#8 v
  | .cmpZp z => enc2 0xC5#8 z
  | .cmpZpx z => enc2 0xD5#8 z
  | .cmpAbs a => enc3 0xCD#8 a
  | .cmpAbx a => enc3 0xDD#8 a
  | .cmpAby a => enc3 0xD9#8 a
  | .cmpIzx z => enc2 0xC1#8 z
  | .cmpIzy z => enc2 0xD1#8 z
  | .cpxImm v => enc2 0xE0#8 v
  | .cpxZp z => enc2 0xE4#8 z
  | .cpxAbs a => enc3 0xEC#8 a
  | .cpyImm v => enc2 0xC0#8 v
  | .cpyZp z => enc2 0xC4#8 z
  | .cpyAbs a => enc3 0xCC#8 a
  | .incZp z => enc2 0xE6#8 z
  | .incZpx z => enc2 0xF6#8 z
  | .incAbs a => enc3 0xEE#8 a
  | .incAbx a => enc3 0xFE#8 a
  | .decZp z => enc2 0xC6#8 z
  | .decZpx z => enc2 0xD6#8 z
  | .decAbs a => enc3 0xCE#8 a
  | .decAbx a => enc3 0xDE#8 a
  | .inx => [0xE8#8]
  | .iny => [0xC8#8]
  | .dex => [0xCA#8]
  | .dey => [0x88#8]
  | .aslAcc => [0x0A#8]
  | .aslZp z => enc2 0x06#8 z
  | .aslZpx z => enc2 0x16#8 z
  | .aslAbs a => enc3 0x0E#8 a
  | .aslAbx a => enc3 0x1E#8 a
  | .lsrAcc => [0x4A#8]
  | .lsrZp z => enc2 0x46#8 z
  | .lsrZpx z => enc2 0x56#8 z
  | .lsrAbs a => enc3 0x4E#8 a
  | .lsrAbx a => enc3 0x5E#8 a
  | .rolAcc => [0x2A#8]
  | .rolZp z => enc2 0x26#8 z
  | .rolZpx z => enc2 0x36#8 z
  | .rolAbs a => enc3 0x2E#8 a
  | .rolAbx a => enc3 0x3E#8 a
  | .rorAcc => [0x6A#8]
  | .rorZp z => enc2 0x66#8 z
  | .rorZpx z => enc2 0x76#8 z
  | .rorAbs a => enc3 0x6E#8 a
  | .rorAbx a => enc3 0x7E#8 a
  | .jmpAbs a => enc3 0x4C#8 a
  | .jmpInd a => enc3 0x6C#8 a
  | .jsr a => enc3 0x20#8 a
  | .rts => [0x60#8]
  | .bcc d => enc2 0x90#8 d
  | .bcs d => enc2 0xB0#8 d
  | .beq d => enc2 0xF0#8 d
  | .bne d => enc2 0xD0#8 d
  | .bmi d => enc2 0x30#8 d
  | .bpl d => enc2 0x10#8 d
  | .bvc d => enc2 0x50#8 d
  | .bvs d => enc2 0x70#8 d
  | .clc => [0x18#8]
  | .sec => [0x38#8]
  | .cli => [0x58#8]
  | .sei => [0x78#8]
  | .cld => [0xD8#8]
  | .sed => [0xF8#8]
  | .clv => [0xB8#8]
  | .brk => [0x00#8]
  | .rti => [0x40#8]
  | .nop => [0xEA#8]

/-- The bytes of the longest instruction that is laid out as the number `w` (bit 0 the least
significant bit of the first byte), every bit from `nbits` up being 0. -/
def bytesOfNumber (nbits w : Nat) : List Byte :=
  let u := w % 2 ^ nbits
  [BitVec.ofNat 8 u, BitVec.ofNat 8 (u / 256), BitVec.ofNat 8 (u / 65536)]

/-- The instruction the decoder reads from bits numbered as spec/opcode_table.json numbers them. -/
def decodeTableWord (nbits w : Nat) : Option Instr :=
  (decode (bytesOfNumber nbits w)).map (·.1)

end Sys2Proof
end

