-- ==== Sys2Proof/Machine/Bits.lean ====
section
/-! DEFINITION. Bit-field helpers for the notation `v[hi:lo]` and `v[hi:lo] <- f` of 00_scope.md R11. -/

namespace Sys2Proof

/-- `v[lo + k - 1 : lo]`. -/
def field {n : Nat} (v : BitVec n) (lo k : Nat) : BitVec k := v.extractLsb' lo k

/-- `v[lo + k - 1 : lo] <- f`, the other bits kept. -/
def putField {n k : Nat} (v : BitVec n) (lo : Nat) (f : BitVec k) : BitVec n :=
  (v &&& ~~~((BitVec.allOnes k).setWidth n <<< lo)) ||| (f.setWidth n <<< lo)

/-- Bit `i` of `v`. -/
def bit {n : Nat} (v : BitVec n) (i : Nat) : Bool := v.getLsbD i

/-- A bit as an integer, 0 or 1. -/
def bitNat (b : Bool) : Nat := if b then 1 else 0

/-- A bit moved to position `i` of an `n`-bit value. -/
def bitAt (n : Nat) (b : Bool) (i : Nat) : BitVec n := (BitVec.ofBool b).setWidth n <<< i

end Sys2Proof
end

