-- ==== Sys2Proof/Config.lean ====
section
/-! DEFINITION. What an implementation fixes (00_scope.md R8, R9), the cartridge the machine is
built from, the power-on values the source leaves open, and the free values.  The free values are
opaque constants: nothing can be proved of what they are. -/

namespace Sys2Proof

namespace Config

/-- Address of the NMI vector (00_scope.md R8, 20_memory.md R96). -/
def nmiVector : Word := 0xFFFA#16
/-- Address of the reset vector (00_scope.md R8, 20_memory.md R96). -/
def resetVector : Word := 0xFFFC#16
/-- Address of the IRQ and BRK vector (00_scope.md R8, 20_memory.md R96). -/
def irqVector : Word := 0xFFFE#16
/-- `INT_CYCLES`, the cycles of an NMI or IRQ service sequence (00_scope.md R8, 92 D6). -/
def intCycles : Nat := 7
/-- The cycles of the reset sequence (70_reset_and_hazards.md R701). -/
def resetCycles : Nat := 7
/-- `CPU_HZ` (00_scope.md R9). -/
def cpuHz : Nat := 1789773
/-- `SAMPLE_HZ` (00_scope.md R9). -/
def sampleHz : Nat := 44100

/-- `MASTER_PALETTE`, OPEN (00_scope.md R9, 92 D24): any fixed table from a colour to an RGBA word.
Never read by a step; only by the host's view of the frame buffer. -/
opaque masterPalette : BitVec 6 → BitVec 32

end Config

/-- The six mappers in scope (00_scope.md R1, R9). -/
inductive MapperKind where
  | nrom | mmc1 | uxrom | cnrom | mmc3 | aorom
  deriving DecidableEq, Repr

/-- Nametable mirroring (62_ppu.md R432).  A header holds only the first two or `fourScreen`. -/
inductive Mirroring where
  | horizontal | vertical | singleA | singleB | fourScreen
  deriving DecidableEq, Repr

/-- The `Cartridge` parameter (00_scope.md R9): immutable once the machine is built. -/
structure Cartridge where
  mapper : MapperKind
  prgRom : Memory
  /-- Length of `prg_rom` in bytes, `16384 * n` with `n >= 1`. -/
  prgLen : Nat
  chrRom : Memory
  /-- Length of `chr_rom` in bytes, `8192 * m`; 0 means 8 KB of CHR RAM. -/
  chrLen : Nat
  mirroring : Mirroring
  battery : Bool
  /-- 0 or 8192. -/
  prgRamSize : Nat
  deriving DecidableEq, Repr

/-- The 13 addressing modes (30_encoding.md R130). -/
inductive AddrMode where
  | imp | acc | imm | zp | zpx | zpy | rel | abs | abx | aby | ind | izx | izy
  deriving DecidableEq, Repr

/-- One entry of `UNOFFICIAL_NOPS`: mode, base cycles, page-cross flag (30_encoding.md R145). -/
structure NopForm where
  mode : AddrMode
  cycles : Nat
  pageFlag : Bool
  deriving DecidableEq, Repr

/-- The open parameters that steer a step (00_scope.md R8, R9; 92_eei_decisions.md D8, D9, D16),
with the spec's defaults.  A state carries them, so a claim about every state covers every value. -/
structure Params where
  strictMapperAccess : Bool := true
  dmcStall : Nat := 4
  unofficialNops : List (Byte × NopForm) := []
  deriving DecidableEq, Repr

/-- The power-on values the source leaves open (00_scope.md R8, R9; 92_eei_decisions.md D4, D39),
with the spec's deterministic defaults (log 3, log 4). -/
structure PowerOnValues where
  a : Byte := 0#8
  x : Byte := 0#8
  y : Byte := 0#8
  c : Bool := false
  z : Bool := false
  d : Bool := false
  v : Bool := false
  n : Bool := false
  ram : Memory := []
  vram : Memory := []
  oam : Memory := []
  palette : Cells 6 := []
  prgRam : Memory := []
  chrRam : Memory := []
  cartVram : Memory := []
  deriving DecidableEq, Repr

end Sys2Proof
end

