-- ==== Sys2Proof/Machine/Memory.lean ====
section
/-! DEFINITION. Reading and writing an array held as a canonical list of cells.  Every RAM, ROM,
the palette and the frame buffer are held this way. -/

namespace Sys2Proof

variable {w : Nat}

/-- The entry at index `k`; an unlisted index reads 0 (92_eei_decisions.md D39's default for the
power-on contents; log 4). -/
def Cells.read (m : Cells w) (k : Nat) : BitVec w :=
  match m with
  | [] => 0#w
  | (j, b) :: rest => if j = k then b else Cells.read rest k

/-- Put a non-zero entry at its place in the rising order. -/
def Cells.insert (m : Cells w) (k : Nat) (v : BitVec w) : Cells w :=
  match m with
  | [] => [(k, v)]
  | (j, b) :: rest =>
    if k < j then (k, v) :: (j, b) :: rest
    else if k = j then (k, v) :: rest
    else (j, b) :: Cells.insert rest k v

/-- Store `v` at index `k`.  Storing what an unlisted index reads as removes the entry, so equal
arrays are equal lists. -/
def Cells.write (m : Cells w) (k : Nat) (v : BitVec w) : Cells w :=
  if v = 0#w then m.filter (fun c => c.1 != k) else Cells.insert m k v

/-- The canonical form of an array of `n` entries: indices strictly rising and below `n`, no entry
equal to what an unlisted index reads as. -/
abbrev Cells.wf (n : Nat) (m : Cells w) : Prop :=
  m.Pairwise (fun a b => a.1 < b.1) ∧ ∀ c ∈ m, c.2 ≠ 0#w ∧ c.1 < n

/-- The canonical form of a byte array of `n` bytes. -/
abbrev Memory.wf (n : Nat) (m : Memory) : Prop := Cells.wf n m

/-- The list of cells of an array whose first entries are the given bytes, from index `k` on. -/
def Cells.ofListFrom (k : Nat) : List (BitVec w) → Cells w
  | [] => []
  | v :: vs => if v = 0#w then Cells.ofListFrom (k + 1) vs else (k, v) :: Cells.ofListFrom (k + 1) vs

/-- The array whose entries are the given list, from index 0. -/
def Cells.ofList (vs : List (BitVec w)) : Cells w := Cells.ofListFrom 0 vs

end Sys2Proof
end

