-- ==== Sys2Proof/Machine/State.lean ====
section
/-! DEFINITION. The state of the machine (10_state.md), the ways a step can stop, and the state right
after power-on.  Everything is plain data. -/

namespace Sys2Proof.Machine

/-! ### CPU (10_state.md section 2) -/

/-- The six stored flags of P (10_state.md R25). -/
structure Flags where
  c : Bool
  z : Bool
  i : Bool
  d : Bool
  v : Bool
  n : Bool
  deriving DecidableEq, Repr

/-- The CPU registers (10_state.md R21 to R29). -/
structure Cpu where
  a : Byte
  x : Byte
  y : Byte
  sp : Byte
  pc : Word
  p : Flags
  /-- CPU cycles since power-on (R28), unbounded (log 8). -/
  cycles : Nat
  /-- The latch of the edge-triggered NMI input (R29). -/
  nmiPending : Bool
  deriving DecidableEq, Repr

/-! ### Controllers (10_state.md R36) -/

/-- Snapshots, shift registers and the shared strobe of the two controllers. -/
structure Pads where
  snapshot1 : Byte
  snapshot2 : Byte
  shift1 : Byte
  shift2 : Byte
  strobe : Bool
  deriving DecidableEq, Repr

/-! ### PPU (10_state.md R38) -/

/-- The latches of one sprite output slot (62_ppu.md R472). -/
structure SpriteSlot where
  patLo : Byte
  patHi : Byte
  attr : Byte
  x : Byte
  deriving DecidableEq, Repr

/-- The PPU (10_state.md R38, 62_ppu.md). -/
structure Ppu where
  v : BitVec 15
  t : BitVec 15
  x : BitVec 3
  w : Bool
  ctrl : Byte
  mask : Byte
  nmiOccurred : Bool
  spriteZeroHit : Bool
  spriteOverflow : Bool
  oamAddr : Byte
  readBuffer : Byte
  vram : Memory
  palette : Cells 6
  oam : Memory
  secondaryOam : Memory
  spriteCount : Nat
  spriteZeroNext : Bool
  spriteZeroLine : Bool
  bgShiftLo : BitVec 16
  bgShiftHi : BitVec 16
  atShiftLo : Byte
  atShiftHi : Byte
  atLatch : BitVec 2
  ntLatch : Byte
  atFetch : BitVec 2
  patLoLatch : Byte
  patHiLatch : Byte
  sprites : Vector SpriteSlot 8
  scanline : Int
  dot : Nat
  frame : Nat
  oddFrame : Bool
  /-- Entry `y * 256 + x` is `emphasis ++ colour` of the pixel at column `x`, row `y` (R460). -/
  frameBuffer : Cells 9
  deriving DecidableEq, Repr

/-! ### APU (10_state.md R39) -/

/-- An envelope unit (63_apu.md R515). -/
structure Envelope where
  start : Bool
  divider : BitVec 4
  decay : BitVec 4
  deriving DecidableEq, Repr

/-- A pulse channel (63_apu.md R510 to R518). -/
structure Pulse where
  duty : BitVec 2
  dutyStep : BitVec 3
  lengthHalt : Bool
  constantVolume : Bool
  volume : BitVec 4
  env : Envelope
  sweepEnabled : Bool
  sweepPeriod : BitVec 3
  sweepNegate : Bool
  sweepShift : BitVec 3
  sweepReload : Bool
  sweepDivider : BitVec 3
  timerPeriod : BitVec 11
  timer : BitVec 11
  length : Byte
  enabled : Bool
  deriving DecidableEq, Repr

/-- The triangle channel (63_apu.md R520 to R524). -/
structure Triangle where
  control : Bool
  linearReloadValue : BitVec 7
  linear : BitVec 7
  linearReload : Bool
  timerPeriod : BitVec 11
  timer : BitVec 11
  seqStep : BitVec 5
  length : Byte
  enabled : Bool
  deriving DecidableEq, Repr

/-- The noise channel (63_apu.md R530 to R533). -/
structure Noise where
  lengthHalt : Bool
  constantVolume : Bool
  volume : BitVec 4
  env : Envelope
  mode : Bool
  periodIndex : BitVec 4
  timer : Nat
  lfsr : BitVec 15
  length : Byte
  enabled : Bool
  deriving DecidableEq, Repr

/-- The delta modulation channel (63_apu.md R540 to R548). -/
structure Dmc where
  irqEnable : Bool
  loop : Bool
  rateIndex : BitVec 4
  timer : Nat
  output : BitVec 7
  sampleAddr : Word
  sampleLen : BitVec 12
  curAddr : Word
  bytesRemaining : BitVec 12
  buffer : Byte
  bufferFull : Bool
  shift : Byte
  bitsRemaining : Nat
  silence : Bool
  irqFlag : Bool
  deriving DecidableEq, Repr

/-- The frame counter (63_apu.md R501 to R506). -/
structure FrameCounter where
  /-- `mode`: false is 4-step, true is 5-step. -/
  fiveStep : Bool
  irqInhibit : Bool
  frameIrq : Bool
  fcCycle : Nat
  deriving DecidableEq, Repr

/-- The APU (10_state.md R39, 63_apu.md). -/
structure Apu where
  pulse1 : Pulse
  pulse2 : Pulse
  triangle : Triangle
  noise : Noise
  dmc : Dmc
  frame : FrameCounter
  cycleParity : Bool
  sampleAcc : Nat
  /-- The output sample queue, oldest first: exact rationals (63_apu.md R570, R572). -/
  samples : List Rat
  deriving DecidableEq, Repr

/-! ### Cartridge memory and mapper (10_state.md R40, R41) -/

/-- The cartridge's writable memories (10_state.md R40). -/
structure Board where
  prgRam : Memory
  chrRam : Memory
  cartVram : Memory
  deriving DecidableEq, Repr

/-- MMC1 registers (64_mappers.md R640). -/
structure Mmc1 where
  shift : BitVec 5
  writeCount : Nat
  control : BitVec 5
  chrBank0 : BitVec 5
  chrBank1 : BitVec 5
  prgBank : BitVec 5
  deriving DecidableEq, Repr

/-- MMC3 registers (64_mappers.md R655 to R665). -/
structure Mmc3 where
  bankSelect : Byte
  r : Vector Byte 8
  mirroring : Bool
  prgRamProtect : Byte
  irqLatch : Byte
  irqCounter : Byte
  irqReload : Bool
  irqEnable : Bool
  irqFlag : Bool
  lastA12 : Bool
  deriving DecidableEq, Repr

/-- Mapper state, tagged by variant (10_state.md R41). -/
inductive MapperState where
  | nrom
  | uxrom (prgBank : Byte)
  | cnrom (chrBank : Byte)
  | aorom (prgBank : BitVec 3) (singleScreen : Bool)
  | mmc1 (m : Mmc1)
  | mmc3 (m : Mmc3)
  deriving DecidableEq, Repr

/-! ### The machine -/

/-- The whole machine (10_state.md).  `cart` and `params` are constant: a state carries them so that
a claim about every state covers every cartridge and every value of the open parameters (log 1,
log 12).  `cyc` is the model's own: the `cyc` of 00_scope.md R16, which after a step is the number
`tick` returned (61_bus_dma_controllers.md R350; log 5). -/
structure State where
  cpu : Cpu
  ram : Memory
  dataBus : Byte
  pendingStall : Nat
  pads : Pads
  ppu : Ppu
  apu : Apu
  board : Board
  mapper : MapperState
  cart : Cartridge
  params : Params
  cyc : Nat
  deriving DecidableEq, Repr

/-- The kind of a bus access (00_scope.md R15). -/
inductive AccessKind where
  | read
  | write
  deriving DecidableEq, Repr

/-- Why a step stops with a fault (60_exceptions.md R301 to R303).  `left` is the state at the fault
that R301 and R302 describe: the accesses made before it keep their effects, nothing else of the step
has happened (log 6).  Both are safe: the spec itself ends the run there. -/
inductive Fault where
  /-- Raised by the fetch (`cpuInstruction`) on an undefined opcode that is not in `UNOFFICIAL_NOPS`,
  with the opcode and its address (60_exceptions.md R301).  Safe. -/
  | decodeError (opcode : Byte) (pc : Word) (left : State)
  /-- Raised by `busWrite` on a write the mapper has no meaning for while `STRICT_MAPPER_ACCESS`
  (60_exceptions.md R302, 64_mappers.md R607).  Safe. -/
  | badAccess (addr : Word) (kind : AccessKind) (left : State)
  deriving DecidableEq, Repr

/-- Why a step is refused. -/
inductive Refusal where
  /-- Raised by an arm of `exec` whose instruction has no meaning in the model; no arm raises it.
  Safe. -/
  | notModelled (mnemonic : String)
  deriving DecidableEq, Repr

/-! ### Power-on values (10_state.md, the "power-on" columns) -/

/-- PPU at power-on (10_state.md R38), with the open array contents given. -/
def Ppu.powerOn (vram oam : Memory) (palette : Cells 6) : Ppu where
  v := 0#15
  t := 0#15
  x := 0#3
  w := false
  ctrl := 0#8
  mask := 0#8
  nmiOccurred := false
  spriteZeroHit := false
  spriteOverflow := false
  oamAddr := 0#8
  readBuffer := 0#8
  vram := vram
  palette := palette
  oam := oam
  secondaryOam := Cells.ofList (List.replicate 32 0xFF#8)
  spriteCount := 0
  spriteZeroNext := false
  spriteZeroLine := false
  bgShiftLo := 0#16
  bgShiftHi := 0#16
  atShiftLo := 0#8
  atShiftHi := 0#8
  atLatch := 0#2
  ntLatch := 0#8
  atFetch := 0#2
  patLoLatch := 0#8
  patHiLatch := 0#8
  sprites := Vector.replicate 8 ⟨0#8, 0#8, 0#8, 0#8⟩
  scanline := 0
  dot := 0
  frame := 0
  oddFrame := false
  frameBuffer := []

/-- A pulse channel at power-on (10_state.md R39). -/
def Pulse.powerOn : Pulse where
  duty := 0#2
  dutyStep := 0#3
  lengthHalt := false
  constantVolume := false
  volume := 0#4
  env := ⟨false, 0#4, 0#4⟩
  sweepEnabled := false
  sweepPeriod := 0#3
  sweepNegate := false
  sweepShift := 0#3
  sweepReload := false
  sweepDivider := 0#3
  timerPeriod := 0#11
  timer := 0#11
  length := 0#8
  enabled := false

/-- APU at power-on (10_state.md R39). -/
def Apu.powerOn : Apu where
  pulse1 := Pulse.powerOn
  pulse2 := Pulse.powerOn
  triangle :=
    { control := false, linearReloadValue := 0#7, linear := 0#7, linearReload := false,
      timerPeriod := 0#11, timer := 0#11, seqStep := 0#5, length := 0#8, enabled := false }
  noise :=
    { lengthHalt := false, constantVolume := false, volume := 0#4, env := ⟨false, 0#4, 0#4⟩,
      mode := false, periodIndex := 0#4, timer := 0, lfsr := 1#15, length := 0#8, enabled := false }
  dmc :=
    { irqEnable := false, loop := false, rateIndex := 0#4, timer := 0, output := 0#7,
      sampleAddr := 0xC000#16, sampleLen := 1#12, curAddr := 0#16, bytesRemaining := 0#12,
      buffer := 0#8, bufferFull := false, shift := 0#8, bitsRemaining := 8, silence := true,
      irqFlag := false }
  frame := { fiveStep := false, irqInhibit := false, frameIrq := false, fcCycle := 0 }
  cycleParity := false
  sampleAcc := 0
  samples := []

/-- Mapper state at power-on (10_state.md R41). -/
def MapperState.powerOn : MapperKind → MapperState
  | .nrom => .nrom
  | .uxrom => .uxrom 0#8
  | .cnrom => .cnrom 0#8
  | .aorom => .aorom 0#3 false
  | .mmc1 =>
    .mmc1 { shift := 0#5, writeCount := 0, control := 0x0C#5, chrBank0 := 0#5, chrBank1 := 0#5,
            prgBank := 0#5 }
  | .mmc3 =>
    .mmc3 { bankSelect := 0#8, r := Vector.replicate 8 0#8, mirroring := false,
            prgRamProtect := 0#8, irqLatch := 0#8, irqCounter := 0#8, irqReload := false,
            irqEnable := false, irqFlag := false, lastA12 := false }

/-- Step 1 of `power_on` (70_reset_and_hazards.md R700): every piece of state at its power-on value,
before the CPU reset sequence.  `SP`, `PC` and `P.I` are set by that sequence. -/
def State.built (cart : Cartridge) (params : Params) (o : PowerOnValues) : State where
  cpu :=
    { a := o.a, x := o.x, y := o.y, sp := 0#8, pc := 0#16,
      p := { c := o.c, z := o.z, i := false, d := o.d, v := o.v, n := o.n },
      cycles := 0, nmiPending := false }
  ram := o.ram
  dataBus := 0#8
  pendingStall := 0
  pads := ⟨0#8, 0#8, 0#8, 0#8, false⟩
  ppu := Ppu.powerOn o.vram o.oam o.palette
  apu := Apu.powerOn
  board := ⟨o.prgRam, o.chrRam, o.cartVram⟩
  mapper := MapperState.powerOn cart.mapper
  cart := cart
  params := params
  cyc := 0

/-- The cartridge of `State.reset` (log 1): the test cartridge of 95_test_vectors.md section 0 (NROM,
16 KB of PRG ROM, CHR RAM, horizontal mirroring, no PRG RAM) with every PRG ROM byte 0. -/
def resetCartridge : Cartridge where
  mapper := .nrom
  prgRom := []
  prgLen := 16384
  chrRom := []
  chrLen := 0
  mirroring := .horizontal
  battery := false
  prgRamSize := 0

/-- The machine right after power-on with that cartridge and the default parameters
(70_reset_and_hazards.md R700 to R702).  The reset vector reads 0x0000. -/
def State.reset : State :=
  { State.built resetCartridge {} {} with
    cpu :=
      { a := 0#8, x := 0#8, y := 0#8, sp := 0xFD#8, pc := 0x0000#16,
        p := { c := false, z := false, i := true, d := false, v := false, n := false },
        cycles := 7, nmiPending := false } }

end Sys2Proof.Machine
end

