-- ==== Sys2Proof/Machine/Update.lean ====
section
/-! DEFINITION. One named update per component of the state.  Every later operation changes the state
through these; Laws/State.lean has one lemma per component per update. -/

namespace Sys2Proof.Machine

def State.setCpu (s : State) (c : Cpu) : State := { s with cpu := c }
def State.setRam (s : State) (m : Memory) : State := { s with ram := m }
def State.setDataBus (s : State) (b : Byte) : State := { s with dataBus := b }
def State.setPendingStall (s : State) (n : Nat) : State := { s with pendingStall := n }
def State.setPads (s : State) (p : Pads) : State := { s with pads := p }
def State.setPpu (s : State) (p : Ppu) : State := { s with ppu := p }
def State.setApu (s : State) (a : Apu) : State := { s with apu := a }
def State.setBoard (s : State) (b : Board) : State := { s with board := b }
def State.setMapper (s : State) (m : MapperState) : State := { s with mapper := m }
def State.setCyc (s : State) (n : Nat) : State := { s with cyc := n }

/-- `nmi_pending <- b` (10_state.md R29). -/
def State.setNmiPending (s : State) (b : Bool) : State := s.setCpu { s.cpu with nmiPending := b }

end Sys2Proof.Machine
end

