-- ==== Sys2Proof/Machine/Apu.lean ====
section
/-! DEFINITION. The APU's units, channel outputs, frame counter, mixer, resampler and registers
(63_apu.md), as functions of the APU state alone.  The DMC's memory reader, which uses the CPU bus, is
in Machine/Tick.lean. -/

namespace Sys2Proof.Machine

/-! ### Lookup tables (R507 to R509) -/

/-- `LENGTH` (R507). -/
def lengthTable : List Byte :=
  [10#8, 254#8, 20#8, 2#8, 40#8, 4#8, 80#8, 6#8, 160#8, 8#8, 60#8, 10#8, 14#8, 12#8, 26#8, 14#8] ++
  [12#8, 16#8, 24#8, 18#8, 48#8, 20#8, 96#8, 22#8, 192#8, 24#8, 72#8, 26#8, 16#8, 28#8, 32#8, 30#8]

/-- `LENGTH[b[7:3]]`. -/
def lengthLoad (b : Byte) : Byte := lengthTable.getD (field b 3 5).toNat 0#8

/-- `DUTY[duty]` as eight bits, bit `k` being step `k` (R508). -/
def dutyPattern (duty : BitVec 2) : Byte :=
  match duty.toNat with
  | 0 => 0b00000010#8
  | 1 => 0b00000110#8
  | 2 => 0b00011110#8
  | _ => 0b11111001#8

/-- `TRI[seq_step]` (R509). -/
def triangleLevel (seqStep : BitVec 5) : Nat :=
  if seqStep.toNat < 16 then 15 - seqStep.toNat else seqStep.toNat - 16

/-- `NOISE_PERIOD` (R509). -/
def noisePeriods : List Nat :=
  [4, 8, 16, 32, 64, 96, 128, 160, 202, 254, 380, 508, 762, 1016, 2034, 4068]

/-- `DMC_RATE` (R509). -/
def dmcRates : List Nat :=
  [428, 380, 340, 320, 286, 254, 226, 214, 190, 160, 142, 128, 106, 84, 72, 54]

/-! ### Shared units -/

/-- Envelope clock; `loop` is the channel's `length_halt` (R515). -/
def Envelope.clock (e : Envelope) (volume : BitVec 4) (loop : Bool) : Envelope :=
  if e.start then { start := false, decay := 15#4, divider := volume }
  else if e.divider = 0#4 then
    { e with divider := volume
             decay := if e.decay ≠ 0#4 then e.decay - 1#4 else if loop then 15#4 else e.decay }
  else { e with divider := e.divider - 1#4 }

/-- Envelope output, 0..15 (R515). -/
def Envelope.output (e : Envelope) (constant : Bool) (volume : BitVec 4) : Nat :=
  if constant then volume.toNat else e.decay.toNat

/-- Length counter clock (R516). -/
def clockLength (length : Byte) (halt : Bool) : Byte :=
  if halt = false ∧ length ≠ 0#8 then length - 1#8 else length

/-! ### Pulse channels -/

/-- The sweep's target period, an integer; pulse 1 subtracts one more (R517). -/
def Pulse.sweepTarget (p : Pulse) (isPulse1 : Bool) : Int :=
  let change : Int := (p.timerPeriod >>> p.sweepShift.toNat).toNat
  if p.sweepNegate then p.timerPeriod.toNat - change - bitNat isPulse1
  else p.timerPeriod.toNat + change

/-- `mute` (R517). -/
def Pulse.mute (p : Pulse) (isPulse1 : Bool) : Bool :=
  decide (p.timerPeriod.toNat < 8) || decide (p.sweepTarget isPulse1 > 0x7FF)

/-- Sweep clock (R517). -/
def Pulse.clockSweep (p : Pulse) (isPulse1 : Bool) : Pulse :=
  let period :=
    if p.sweepDivider = 0#3 ∧ p.sweepEnabled = true ∧ p.sweepShift ≠ 0#3 ∧ p.mute isPulse1 = false then
      BitVec.ofNat 11 (p.sweepTarget isPulse1).toNat
    else p.timerPeriod
  if p.sweepDivider = 0#3 ∨ p.sweepReload = true then
    { p with timerPeriod := period, sweepDivider := p.sweepPeriod, sweepReload := false }
  else { p with timerPeriod := period, sweepDivider := p.sweepDivider - 1#3 }

/-- Quarter-frame clock of a pulse channel (R501, R515). -/
def Pulse.quarter (p : Pulse) : Pulse := { p with env := p.env.clock p.volume p.lengthHalt }

/-- Half-frame clock of a pulse channel (R501, R516, R517). -/
def Pulse.half (p : Pulse) (isPulse1 : Bool) : Pulse :=
  { p.clockSweep isPulse1 with length := clockLength p.length p.lengthHalt }

/-- Timer clock (R514). -/
def Pulse.clockTimer (p : Pulse) : Pulse :=
  if p.timer = 0#11 then { p with timer := p.timerPeriod, dutyStep := p.dutyStep + 1#3 }
  else { p with timer := p.timer - 1#11 }

/-- Channel output, 0..15 (R518). -/
def Pulse.output (p : Pulse) (isPulse1 : Bool) : Nat :=
  if p.length = 0#8 ∨ bit (dutyPattern p.duty) p.dutyStep.toNat = false ∨ p.mute isPulse1 = true then 0
  else p.env.output p.constantVolume p.volume

/-- Write of a pulse register, index 0..3 (R510 to R513).  DESIGN CHOICE (log 26): of the statements on
R513's line only the length load is under its `if`. -/
def Pulse.write (p : Pulse) (index : Nat) (b : Byte) : Pulse :=
  match index with
  | 0 => { p with duty := field b 6 2, lengthHalt := bit b 5, constantVolume := bit b 4, volume := field b 0 4 }
  | 1 => { p with sweepEnabled := bit b 7, sweepPeriod := field b 4 3, sweepNegate := bit b 3,
                  sweepShift := field b 0 3, sweepReload := true }
  | 2 => { p with timerPeriod := putField p.timerPeriod 0 b }
  | _ => { p with timerPeriod := putField p.timerPeriod 8 (field b 0 3)
                  length := if p.enabled then lengthLoad b else p.length
                  dutyStep := 0#3
                  env := { p.env with start := true } }

/-! ### Triangle channel -/

/-- Linear counter clock (R524). -/
def Triangle.quarter (t : Triangle) : Triangle :=
  { t with
    linear := if t.linearReload then t.linearReloadValue
              else if t.linear ≠ 0#7 then t.linear - 1#7 else t.linear
    linearReload := t.linearReload && t.control }

/-- Half-frame clock: the length counter, halted by `control` (R516). -/
def Triangle.half (t : Triangle) : Triangle := { t with length := clockLength t.length t.control }

/-- Timer clock (R523). -/
def Triangle.clockTimer (t : Triangle) : Triangle :=
  if t.timer = 0#11 then
    { t with timer := t.timerPeriod
             seqStep := if t.linear ≠ 0#7 ∧ t.length ≠ 0#8 then t.seqStep + 1#5 else t.seqStep }
  else { t with timer := t.timer - 1#11 }

/-- Channel output, 0..15 (R523). -/
def Triangle.output (t : Triangle) : Nat := triangleLevel t.seqStep

/-- Write of a triangle register, index 0..3; index 1 is unused (R520 to R522).  DESIGN CHOICE (log 26):
of the statements on R522's line only the length load is under its `if`. -/
def Triangle.write (t : Triangle) (index : Nat) (b : Byte) : Triangle :=
  match index with
  | 0 => { t with control := bit b 7, linearReloadValue := field b 0 7 }
  | 1 => t
  | 2 => { t with timerPeriod := putField t.timerPeriod 0 b }
  | _ => { t with timerPeriod := putField t.timerPeriod 8 (field b 0 3)
                  length := if t.enabled then lengthLoad b else t.length
                  linearReload := true }

/-! ### Noise channel -/

/-- Quarter-frame clock (R515). -/
def Noise.quarter (n : Noise) : Noise := { n with env := n.env.clock n.volume n.lengthHalt }

/-- Half-frame clock (R516). -/
def Noise.half (n : Noise) : Noise := { n with length := clockLength n.length n.lengthHalt }

/-- One shift of the feedback register (R533). -/
def lfsrNext (lfsr : BitVec 15) (mode : Bool) : BitVec 15 :=
  let fb := bit lfsr 0 ^^ (if mode then bit lfsr 6 else bit lfsr 1)
  (lfsr >>> 1) ||| bitAt 15 fb 14

/-- Timer clock (R533). -/
def Noise.clockTimer (n : Noise) : Noise :=
  if n.timer = 0 then
    { n with timer := noisePeriods.getD n.periodIndex.toNat 0 - 1, lfsr := lfsrNext n.lfsr n.mode }
  else { n with timer := n.timer - 1 }

/-- Channel output, 0..15 (R533). -/
def Noise.output (n : Noise) : Nat :=
  if bit n.lfsr 0 = true ∨ n.length = 0#8 then 0 else n.env.output n.constantVolume n.volume

/-- Write of a noise register, index 0..3; index 1 is unused (R530 to R532).  DESIGN CHOICE (log 26): of
the statements on R532's line only the length load is under its `if`. -/
def Noise.write (n : Noise) (index : Nat) (b : Byte) : Noise :=
  match index with
  | 0 => { n with lengthHalt := bit b 5, constantVolume := bit b 4, volume := field b 0 4 }
  | 1 => n
  | 2 => { n with mode := bit b 7, periodIndex := field b 0 4 }
  | _ => { n with length := if n.enabled then lengthLoad b else n.length
                  env := { n.env with start := true } }

/-! ### DMC channel -/

/-- One clock of the output level: a step that would leave 0..127 is skipped (R544). -/
def dmcLevel (output : BitVec 7) (up : Bool) : BitVec 7 :=
  if up then (if output.toNat ≤ 125 then output + 2#7 else output)
  else if 2 ≤ output.toNat then output - 2#7 else output

/-- Timer and output unit clock (R544). -/
def Dmc.clockTimer (d : Dmc) : Dmc :=
  if d.timer = 0 then
    let d :=
      { d with
        timer := dmcRates.getD d.rateIndex.toNat 0 - 1
        output := if d.silence then d.output else dmcLevel d.output (bit d.shift 0)
        shift := d.shift >>> 1
        bitsRemaining := d.bitsRemaining - 1 }
    if d.bitsRemaining = 0 then
      if d.bufferFull then
        { d with bitsRemaining := 8, silence := false, shift := d.buffer, bufferFull := false }
      else { d with bitsRemaining := 8, silence := true }
    else d
  else { d with timer := d.timer - 1 }

/-- The memory reader wants a Byte (R545). -/
def Dmc.wantsByte (d : Dmc) : Bool := !d.bufferFull && decide (d.bytesRemaining ≠ 0#12)

/-- The reader's state after it fetched `b` (R545, R547). -/
def Dmc.fetched (d : Dmc) (b : Byte) : Dmc :=
  let d :=
    { d with
      buffer := b
      bufferFull := true
      curAddr := if d.curAddr = 0xFFFF#16 then 0x8000#16 else d.curAddr + 1#16
      bytesRemaining := d.bytesRemaining - 1#12 }
  if d.bytesRemaining = 0#12 then
    if d.loop then { d with curAddr := d.sampleAddr, bytesRemaining := d.sampleLen }
    else if d.irqEnable then { d with irqFlag := true }
    else d
  else d

/-- Write of a DMC register, index 0..3 (R540 to R543). -/
def Dmc.write (d : Dmc) (index : Nat) (b : Byte) : Dmc :=
  match index with
  | 0 => { d with irqEnable := bit b 7, loop := bit b 6, rateIndex := field b 0 4,
                  irqFlag := d.irqFlag && bit b 7 }
  | 1 => { d with output := field b 0 7 }
  | 2 => { d with sampleAddr := 0xC000#16 + (b.setWidth 16 <<< 6) }
  | _ => { d with sampleLen := (b.setWidth 12 <<< 4) + 1#12 }

/-! ### Frame counter -/

/-- Quarter-frame clock (R501). -/
def Apu.quarter (a : Apu) : Apu :=
  { a with pulse1 := a.pulse1.quarter, pulse2 := a.pulse2.quarter, triangle := a.triangle.quarter,
           noise := a.noise.quarter }

/-- Half-frame clock (R501). -/
def Apu.half (a : Apu) : Apu :=
  { a with pulse1 := a.pulse1.half true, pulse2 := a.pulse2.half false, triangle := a.triangle.half,
           noise := a.noise.half }

/-- What the frame counter does at a count (R501). -/
structure FrameEvent where
  quarter : Bool
  half : Bool
  irq : Bool
  restart : Bool
  deriving DecidableEq, Repr

/-- The table of R501. -/
def frameEvent (fiveStep : Bool) (count : Nat) : FrameEvent :=
  match fiveStep, count with
  | false, 7457 => ⟨true, false, false, false⟩
  | false, 14913 => ⟨true, true, false, false⟩
  | false, 22371 => ⟨true, false, false, false⟩
  | false, 29828 => ⟨true, true, true, false⟩
  | false, 29830 => ⟨false, false, false, true⟩
  | true, 7457 => ⟨true, true, false, false⟩
  | true, 14913 => ⟨true, false, false, false⟩
  | true, 22371 => ⟨true, true, false, false⟩
  | true, 37281 => ⟨true, false, false, false⟩
  | true, 37282 => ⟨false, false, false, true⟩
  | _, _ => ⟨false, false, false, false⟩

/-- One step of the frame counter (R501, R506). -/
def Apu.clockFrame (a : Apu) : Apu :=
  let count := a.frame.fcCycle + 1
  let e := frameEvent a.frame.fiveStep count
  let a := { a with frame := { a.frame with
    fcCycle := if e.restart then 0 else count
    frameIrq := a.frame.frameIrq || (e.irq && !a.frame.irqInhibit) } }
  let a := if e.quarter then a.quarter else a
  if e.half then a.half else a

/-- 0x4017 write (R503). -/
def Apu.writeFrame (a : Apu) (b : Byte) : Apu :=
  let a := { a with frame := {
    fiveStep := bit b 7, irqInhibit := bit b 6, frameIrq := a.frame.frameIrq && !bit b 6, fcCycle := 0 } }
  if bit b 7 then a.quarter.half else a

/-! ### Timers, mixer, resampler -/

/-- Part 3 of `apu.step()` (R500). -/
def Apu.clockTimers (a : Apu) : Apu :=
  let parity := !a.cycleParity
  { a with
    cycleParity := parity
    pulse1 := if parity then a.pulse1 else a.pulse1.clockTimer
    pulse2 := if parity then a.pulse2 else a.pulse2.clockTimer
    triangle := a.triangle.clockTimer
    noise := a.noise.clockTimer
    dmc := a.dmc.clockTimer }

/-- `pulse_out` (R570), over the rationals. -/
def pulseMix (p1 p2 : Nat) : Rat :=
  if p1 + p2 = 0 then 0 else (9588 / 100 : Rat) / (8128 / ((p1 + p2 : Nat) : Rat) + 100)

/-- `tnd_out` (R570), over the rationals. -/
def tndMix (tri noise dmc : Nat) : Rat :=
  if tri = 0 ∧ noise = 0 ∧ dmc = 0 then 0
  else (15979 / 100 : Rat) / (1 / ((tri : Rat) / 8227 + (noise : Rat) / 12241 + (dmc : Rat) / 22638) + 100)

/-- The mixer's output (R570). -/
def Apu.mix (a : Apu) : Rat :=
  pulseMix (a.pulse1.output true) (a.pulse2.output false) +
    tndMix a.triangle.output a.noise.output a.dmc.output.toNat

/-- The resampler (R571, R572). -/
def Apu.resample (a : Apu) : Apu :=
  let acc := a.sampleAcc + Config.sampleHz
  if Config.cpuHz ≤ acc then { a with sampleAcc := acc - Config.cpuHz, samples := a.samples ++ [a.mix] }
  else { a with sampleAcc := acc }

/-! ### Registers -/

/-- Write of 0x4000..0x4013, given the low five bits of the address (R510 to R543). -/
def Apu.writeChannel (a : Apu) (reg : Nat) (b : Byte) : Apu :=
  match reg / 4 with
  | 0 => { a with pulse1 := a.pulse1.write (reg % 4) b }
  | 1 => { a with pulse2 := a.pulse2.write (reg % 4) b }
  | 2 => { a with triangle := a.triangle.write (reg % 4) b }
  | 3 => { a with noise := a.noise.write (reg % 4) b }
  | _ => { a with dmc := a.dmc.write (reg % 4) b }

/-- `bytes_remaining` and `cur_addr` of the DMC after its enable bit is written (R546, R550). -/
def Dmc.enable (d : Dmc) (on : Bool) : Dmc :=
  if !on then { d with irqFlag := false, bytesRemaining := 0#12 }
  else if d.bytesRemaining = 0#12 then
    { d with irqFlag := false, curAddr := d.sampleAddr, bytesRemaining := d.sampleLen }
  else { d with irqFlag := false }

/-- 0x4015 write (R550). -/
def Apu.writeEnable (a : Apu) (b : Byte) : Apu :=
  let keep (on : Bool) (length : Byte) : Byte := if on then length else 0#8
  { a with
    pulse1 := { a.pulse1 with enabled := bit b 0, length := keep (bit b 0) a.pulse1.length }
    pulse2 := { a.pulse2 with enabled := bit b 1, length := keep (bit b 1) a.pulse2.length }
    triangle := { a.triangle with enabled := bit b 2, length := keep (bit b 2) a.triangle.length }
    noise := { a.noise with enabled := bit b 3, length := keep (bit b 3) a.noise.length }
    dmc := a.dmc.enable (bit b 4) }

/-- 0x4015 as read (R551). -/
def Apu.statusByte (a : Apu) (bus : Byte) : Byte :=
  bitAt 8 a.dmc.irqFlag 7 ||| bitAt 8 a.frame.frameIrq 6 ||| (bus &&& 0x20#8) |||
    bitAt 8 (a.dmc.bytesRemaining != 0#12) 4 ||| bitAt 8 (a.noise.length != 0#8) 3 |||
    bitAt 8 (a.triangle.length != 0#8) 2 ||| bitAt 8 (a.pulse2.length != 0#8) 1 |||
    bitAt 8 (a.pulse1.length != 0#8) 0

/-- The read of 0x4015 acknowledges the frame interrupt (R551). -/
def Apu.ackFrameIrq (a : Apu) : Apu := { a with frame := { a.frame with frameIrq := false } }

end Sys2Proof.Machine
end

