-- ==== Sys2Proof/Machine/Mapper.lean ====
section
/-! DEFINITION. The cartridge and the six mappers (64_mappers.md): CPU and CHR address translation,
mirroring, registers, and the MMC3 IRQ. -/

namespace Sys2Proof.Machine

/-! ### Bank arithmetic (R601) -/

/-- `N16`. -/
def banks16k (c : Cartridge) : Nat := c.prgLen / 16384
/-- `N8`. -/
def banks8k (c : Cartridge) : Nat := c.prgLen / 8192
/-- `N32`. -/
def banks32k (c : Cartridge) : Nat := max (c.prgLen / 32768) 1
/-- Length of `chr`: `chr_rom`, or the 8192 bytes of CHR RAM when there is none (R601, R605). -/
def chrSize (c : Cartridge) : Nat := if c.chrLen = 0 then 8192 else c.chrLen

/-- Offset of an address in a bank of the given size, the bank number reduced modulo the count. -/
def bankOffset (bank count size addr : Nat) : Nat := bank % count * size + addr % size

/-! ### PRG ROM reads, 0x8000..0xFFFF -/

/-- MMC1's 16 KB bank for a CPU address (R642). -/
def mmc1PrgBank (m : Mmc1) (n16 : Nat) (a : Word) : Nat :=
  let p := (field m.prgBank 0 4).toNat
  let high := bit a 14
  match (field m.control 2 2).toNat with
  | 2 => if high then p else 0
  | 3 => if high then n16 - 1 else p
  | _ => if high then p / 2 * 2 + 1 else p / 2 * 2

/-- MMC3's 8 KB bank for a CPU address (R657). -/
def mmc3PrgBank (m : Mmc3) (n8 : Nat) (a : Word) : Nat :=
  let swapped := bit m.bankSelect 6
  match (field a 13 2).toNat with
  | 0 => if swapped then n8 - 2 else (m.r[6]).toNat
  | 1 => (m.r[7]).toNat
  | 2 => if swapped then (m.r[6]).toNat else n8 - 2
  | _ => n8 - 1

/-- Offset in PRG ROM of a CPU address in 0x8000..0xFFFF (R610, R620, R625, R630, R642, R657). -/
def prgOffset (mapper : MapperState) (c : Cartridge) (a : Word) : Nat :=
  match mapper with
  | .nrom => (a.toNat - 0x8000) % c.prgLen
  | .cnrom _ => (a.toNat - 0x8000) % c.prgLen
  | .uxrom bank =>
    if a.toNat < 0xC000 then bankOffset bank.toNat (banks16k c) 16384 a.toNat
    else bankOffset (banks16k c - 1) (banks16k c) 16384 a.toNat
  | .aorom bank _ => (bank.toNat % banks32k c * 32768 + (a.toNat - 0x8000)) % c.prgLen
  | .mmc1 m => bankOffset (mmc1PrgBank m (banks16k c) a) (banks16k c) 16384 a.toNat
  | .mmc3 m => bankOffset (mmc3PrgBank m (banks8k c) a) (banks8k c) 8192 a.toNat

/-! ### PRG RAM, 0x6000..0x7FFF (R602, R604, R645, R659) -/

/-- The cartridge has PRG RAM. -/
def hasPrgRam (s : State) : Bool := s.cart.prgRamSize == 8192

/-- PRG RAM answers reads: present and, on MMC3, enabled. -/
def prgRamReadable (s : State) : Bool :=
  hasPrgRam s && match s.mapper with
    | .mmc3 m => bit m.prgRamProtect 7
    | _ => true

/-- PRG RAM takes writes: readable and, on MMC3, not write-protected. -/
def prgRamWritable (s : State) : Bool :=
  prgRamReadable s && match s.mapper with
    | .mmc3 m => !bit m.prgRamProtect 6
    | _ => true

/-- `mapper.cpu_read`, 0x4020..0xFFFF; an address nothing answers gives the bus latch
(R602, R606). -/
def mapperCpuRead (s : State) (a : Word) : Byte :=
  if a.toNat < 0x6000 then s.dataBus
  else if a.toNat < 0x8000 then
    if prgRamReadable s then Cells.read s.board.prgRam (a.toNat - 0x6000) else s.dataBus
  else Cells.read s.cart.prgRom (prgOffset s.mapper s.cart a)

/-! ### Register writes, 0x8000..0xFFFF -/

/-- The MMC1 serial port (R640). -/
def mmc1Write (m : Mmc1) (a : Word) (b : Byte) : Mmc1 :=
  if bit b 7 then { m with shift := 0#5, writeCount := 0, control := m.control ||| 0x0C#5 }
  else
    let shift := m.shift ||| bitAt 5 (bit b 0) m.writeCount
    if m.writeCount + 1 = 5 then
      let m := { m with shift := 0#5, writeCount := 0 }
      match (field a 13 2).toNat with
      | 0 => { m with control := shift }
      | 1 => { m with chrBank0 := shift }
      | 2 => { m with chrBank1 := shift }
      | _ => { m with prgBank := shift }
    else { m with shift := shift, writeCount := m.writeCount + 1 }

/-- The MMC3 registers, selected by `a & 0xE001` (R655, R656, R659 to R661, R663, R664). -/
def mmc3Write (m : Mmc3) (a : Word) (b : Byte) : Mmc3 :=
  match (a &&& 0xE001#16).toNat with
  | 0x8000 => { m with bankSelect := b }
  | 0x8001 => { m with r := m.r.set (field m.bankSelect 0 3).toNat b (by exact (field m.bankSelect 0 3).isLt) }
  | 0xA000 => { m with mirroring := bit b 0 }
  | 0xA001 => { m with prgRamProtect := b }
  | 0xC000 => { m with irqLatch := b }
  | 0xC001 => { m with irqReload := true }
  | 0xE000 => { m with irqEnable := false, irqFlag := false }
  | 0xE001 => { m with irqEnable := true }
  | _ => m

/-- The mapper's registers after a CPU write to 0x8000..0xFFFF (R607, R620, R625, R630, R640,
R655). -/
def mapperRegWrite (mapper : MapperState) (a : Word) (b : Byte) : MapperState :=
  match mapper with
  | .nrom => .nrom
  | .uxrom _ => .uxrom b
  | .cnrom _ => .cnrom b
  | .aorom _ _ => .aorom (field b 0 3) (bit b 4)
  | .mmc1 m => .mmc1 (mmc1Write m a b)
  | .mmc3 m => .mmc3 (mmc3Write m a b)

/-- `mapper.cpu_write`, 0x4020..0xFFFF, for a write that is not refused (R602, R607). -/
def mapperCpuWrite (s : State) (a : Word) (b : Byte) : State :=
  if a.toNat < 0x6000 then s
  else if a.toNat < 0x8000 then
    if prgRamWritable s then
      s.setBoard { s.board with prgRam := Cells.write s.board.prgRam (a.toNat - 0x6000) b }
    else s
  else s.setMapper (mapperRegWrite s.mapper a b)

/-- The mapper gives a CPU write to `a` no meaning (R607): 0x4020..0x5FFF on every mapper,
0x8000..0xFFFF on NROM. -/
def writeMeaningless (s : State) (a : Word) : Bool :=
  (decide (0x4020 ≤ a.toNat) && decide (a.toNat < 0x6000)) ||
    (decide (0x8000 ≤ a.toNat) && decide (s.mapper = .nrom))

/-! ### CHR, PPU 0x0000..0x1FFF -/

/-- MMC1's 4 KB CHR bank (R644). -/
def mmc1ChrBank (m : Mmc1) (a : VAddr) : Nat :=
  let high := bit a 12
  if bit m.control 4 then (if high then m.chrBank1 else m.chrBank0).toNat
  else m.chrBank0.toNat / 2 * 2 + bitNat high

/-- MMC3's 1 KB CHR bank (R658). -/
def mmc3ChrBank (m : Mmc3) (a : VAddr) : Nat :=
  let window := field (a ^^^ bitAt 14 (bit m.bankSelect 7) 12) 10 3
  match window.toNat with
  | 0 => (m.r[0] &&& 0xFE#8).toNat
  | 1 => (m.r[0] ||| 1#8).toNat
  | 2 => (m.r[1] &&& 0xFE#8).toNat
  | 3 => (m.r[1] ||| 1#8).toNat
  | 4 => (m.r[2]).toNat
  | 5 => (m.r[3]).toNat
  | 6 => (m.r[4]).toNat
  | _ => (m.r[5]).toNat

/-- Offset in `chr` of a PPU address in 0x0000..0x1FFF (R610, R620, R625, R630, R644, R658). -/
def chrOffset (mapper : MapperState) (c : Cartridge) (a : VAddr) : Nat :=
  match mapper with
  | .nrom | .uxrom _ | .aorom _ _ => a.toNat
  | .cnrom bank => bank.toNat % (chrSize c / 8192) * 8192 + a.toNat
  | .mmc1 m => bankOffset (mmc1ChrBank m a) (chrSize c / 4096) 4096 a.toNat
  | .mmc3 m => bankOffset (mmc3ChrBank m a) (chrSize c / 1024) 1024 a.toNat

/-- `mapper.chr_read` (R605). -/
def chrRead (s : State) (a : VAddr) : Byte :=
  let off := chrOffset s.mapper s.cart a
  if s.cart.chrLen = 0 then Cells.read s.board.chrRam off else Cells.read s.cart.chrRom off

/-- `mapper.chr_write`: stores into CHR RAM, discarded with CHR ROM (R608). -/
def chrWrite (s : State) (a : VAddr) (b : Byte) : State :=
  if s.cart.chrLen = 0 then
    s.setBoard { s.board with chrRam := Cells.write s.board.chrRam (chrOffset s.mapper s.cart a) b }
  else s

/-! ### Mirroring, IRQ, A12 -/

/-- `mapper.mirroring()` (62_ppu.md R433; R630, R641, R643, R660). -/
def mirroringOf (s : State) : Mirroring :=
  match s.mapper with
  | .nrom | .uxrom _ | .cnrom _ => s.cart.mirroring
  | .aorom _ single => if single then .singleB else .singleA
  | .mmc1 m =>
    match (field m.control 0 2).toNat with
    | 0 => .singleA
    | 1 => .singleB
    | 2 => .vertical
    | _ => .horizontal
  | .mmc3 m =>
    if s.cart.mirroring = .fourScreen then .fourScreen
    else if m.mirroring then .horizontal else .vertical

/-- `mapper.irq_pending()` (R600, R665). -/
def irqPending : MapperState → Bool
  | .mmc3 m => m.irqFlag
  | _ => false

/-- The MMC3 IRQ counter at an A12 rising edge (R662). -/
def mmc3Clock (m : Mmc3) : Mmc3 :=
  let m :=
    if m.irqCounter = 0#8 ∨ m.irqReload = true then
      { m with irqCounter := m.irqLatch, irqReload := false }
    else { m with irqCounter := m.irqCounter - 1#8 }
  if m.irqCounter = 0#8 ∧ m.irqEnable = true then { m with irqFlag := true } else m

/-- `mapper.on_ppu_a12(level)` (R600, R662). -/
def onPpuA12 (mapper : MapperState) (level : Bool) : MapperState :=
  match mapper with
  | .mmc3 m =>
    let m := if !m.lastA12 && level then mmc3Clock m else m
    .mmc3 { m with lastA12 := level }
  | other => other

/-- The kind of a mapper state. -/
def MapperState.kind : MapperState → MapperKind
  | .nrom => .nrom
  | .uxrom _ => .uxrom
  | .cnrom _ => .cnrom
  | .aorom _ _ => .aorom
  | .mmc1 _ => .mmc1
  | .mmc3 _ => .mmc3

end Sys2Proof.Machine
end

