-- ==== Sys2Proof/Machine/Ppu.lean ====
section
/-! DEFINITION. The PPU's memory (62_ppu.md section 3) and its eight CPU-visible registers (section 2). -/

namespace Sys2Proof.Machine

/-- "Rendering enabled" (R401). -/
def Ppu.rendering (p : Ppu) : Bool := bit p.mask 3 || bit p.mask 4

/-! ### Memory -/

/-- The mapper is told A12 before every pattern access (R436). -/
def notifyA12 (s : State) (a : VAddr) : State := s.setMapper (onPpuA12 s.mapper (bit a 12))

/-- Physical 1 KB bank of logical nametable `i`: 0 = A, 1 = B, 2 = C, 3 = D (R432). -/
def nametableBank (m : Mirroring) (i : Nat) : Nat :=
  match m with
  | .horizontal => i / 2
  | .vertical => i % 2
  | .singleA => 0
  | .singleB => 1
  | .fourScreen => i

/-- The bank and the offset in it of a nametable address (R432). -/
def nametableCell (s : State) (a : VAddr) : Nat × Nat :=
  (nametableBank (mirroringOf s) (field a 10 2).toNat, (field a 0 10).toNat)

/-- `nt_read` (R432): banks A and B in nametable RAM, C and D in the cartridge's. -/
def ntRead (s : State) (a : VAddr) : Byte :=
  let (bank, o) := nametableCell s a
  if bank < 2 then Cells.read s.ppu.vram (bank * 1024 + o)
  else Cells.read s.board.cartVram ((bank - 2) * 1024 + o)

/-- `nt_write` (R432). -/
def ntWrite (s : State) (a : VAddr) (b : Byte) : State :=
  let (bank, o) := nametableCell s a
  if bank < 2 then s.setPpu { s.ppu with vram := Cells.write s.ppu.vram (bank * 1024 + o) b }
  else s.setBoard { s.board with cartVram := Cells.write s.board.cartVram ((bank - 2) * 1024 + o) b }

/-- Palette index of an address, with 0x10, 0x14, 0x18, 0x1C aliased (R434). -/
def paletteIndex (a : VAddr) : Nat :=
  let p := field a 0 5
  (if p &&& 0x13#5 = 0x10#5 then p &&& 0x0F#5 else p).toNat

/-- `palette_read`, greyscale included (R434, R457). -/
def paletteRead (p : Ppu) (a : VAddr) : BitVec 6 :=
  let entry := Cells.read p.palette (paletteIndex a)
  if bit p.mask 0 then entry &&& 0x30#6 else entry

/-- `palette_write`: six bits are kept (R434). -/
def paletteWrite (p : Ppu) (a : VAddr) (b : Byte) : Ppu :=
  { p with palette := Cells.write p.palette (paletteIndex a) (field b 0 6) }

/-- `ppu_read` (R430). -/
def ppuRead (s : State) (a : VAddr) : Byte × State :=
  if a.toNat < 0x2000 then
    let s := notifyA12 s a
    (chrRead s a, s)
  else if a.toNat < 0x3F00 then (ntRead s a, s)
  else ((paletteRead s.ppu a).setWidth 8, s)

/-- `ppu_write` (R431). -/
def ppuWrite (s : State) (a : VAddr) (b : Byte) : State :=
  if a.toNat < 0x2000 then chrWrite (notifyA12 s a) a b
  else if a.toNat < 0x3F00 then ntWrite s a b
  else s.setPpu (paletteWrite s.ppu a b)

/-! ### Registers -/

/-- The NMI line, `ctrl[7] & nmi_occurred` (60_exceptions.md R311). -/
def Ppu.nmiLine (p : Ppu) : Bool := bit p.ctrl 7 && p.nmiOccurred

/-- `v` after a PPUDATA access (R418, R419). -/
def Ppu.bumpV (p : Ppu) : Ppu := { p with v := p.v + (if bit p.ctrl 2 then 32#15 else 1#15) }

/-- PPUCTRL write (R410). -/
def writePpuCtrl (s : State) (b : Byte) : State :=
  let oldLine := s.ppu.nmiLine
  let s := s.setPpu { s.ppu with ctrl := b, t := putField s.ppu.t 10 (field b 0 2) }
  if !bit b 7 then s.setNmiPending false
  else if !oldLine && s.ppu.nmiOccurred then s.setNmiPending true
  else s

/-- PPUSTATUS as read, its low five bits from the bus latch (R412). -/
def statusByte (p : Ppu) (bus : Byte) : Byte :=
  bitAt 8 p.nmiOccurred 7 ||| bitAt 8 p.spriteZeroHit 6 ||| bitAt 8 p.spriteOverflow 5 ||| (bus &&& 0x1F#8)

/-- OAMDATA as read (R414). -/
def oamDataByte (p : Ppu) : Byte :=
  if p.rendering ∧ -1 ≤ p.scanline ∧ p.scanline ≤ 239 then
    Cells.read p.secondaryOam (p.oamAddr &&& 0x1F#8).toNat
  else Cells.read p.oam p.oamAddr.toNat

/-- OAMDATA write (R415). -/
def writeOamData (p : Ppu) (b : Byte) : Ppu :=
  { p with oam := Cells.write p.oam p.oamAddr.toNat b, oamAddr := p.oamAddr + 1#8 }

/-- PPUSCROLL write (R416). -/
def writePpuScroll (p : Ppu) (b : Byte) : Ppu :=
  if p.w then
    { p with t := putField (putField p.t 12 (field b 0 3)) 5 (field b 3 5), w := false }
  else { p with t := putField p.t 0 (field b 3 5), x := field b 0 3, w := true }

/-- PPUADDR write (R417). -/
def writePpuAddr (p : Ppu) (b : Byte) : Ppu :=
  if p.w then
    let t := putField p.t 0 b
    { p with t := t, v := t, w := false }
  else { p with t := putField (putField p.t 8 (field b 0 6)) 14 0#1, w := true }

/-- PPUDATA read: the Byte and the state after it (R418). -/
def readPpuData (s : State) : Byte × State :=
  let a := s.ppu.v.setWidth 14
  if a.toNat < 0x3F00 then
    let (b, s') := ppuRead s a
    (s.ppu.readBuffer, s'.setPpu { s'.ppu with readBuffer := b }.bumpV)
  else
    let (b, s') := ppuRead s (a - 0x1000#14)
    ((s.dataBus &&& 0xC0#8) ||| (paletteRead s.ppu a).setWidth 8,
      s'.setPpu { s'.ppu with readBuffer := b }.bumpV)

/-- PPUDATA write (R419). -/
def writePpuData (s : State) (b : Byte) : State :=
  let s := ppuWrite s (s.ppu.v.setWidth 14) b
  s.setPpu s.ppu.bumpV

/-- Read of the PPU register with the given index, 0..7: its Byte and the state after its side
effects, before the bus latch is set (R410 to R419, 20_memory.md R90).  The write-only indices return
the bus latch. -/
def ppuRegRead (s : State) (index : Nat) : Byte × State :=
  match index with
  | 2 => (statusByte s.ppu s.dataBus, s.setPpu { s.ppu with nmiOccurred := false, w := false })
  | 4 => (oamDataByte s.ppu, s)
  | 7 => readPpuData s
  | _ => (s.dataBus, s)

/-- Write of the PPU register with the given index (R410 to R419); index 2 is read-only. -/
def ppuRegWrite (s : State) (index : Nat) (b : Byte) : State :=
  match index with
  | 0 => writePpuCtrl s b
  | 1 => s.setPpu { s.ppu with mask := b }
  | 3 => s.setPpu { s.ppu with oamAddr := b }
  | 4 => s.setPpu (writeOamData s.ppu b)
  | 5 => s.setPpu (writePpuScroll s.ppu b)
  | 6 => s.setPpu (writePpuAddr s.ppu b)
  | 7 => writePpuData s b
  | _ => s

end Sys2Proof.Machine
end

