-- ==== Sys2Proof/Machine/Bus.lean ====
section
/-! DEFINITION. The CPU bus (20_memory.md section 3): one read and one write of a Byte, with every
side effect, the controllers and OAM DMA (61_bus_dma_controllers.md). -/

namespace Sys2Proof.Machine

/-- The outcome of an operation that may fault. -/
abbrev Result := Host.Outcome State Fault Refusal

/-- Go on with the state of a next outcome; a stop stays as it is (60_exceptions.md R303). -/
def andThen (r : Result) (f : State → Result) : Result :=
  match r with
  | .next s => f s
  | .fault e => .fault e
  | .refused e => .refused e

/-! ### Controllers -/

/-- A shift register after a read with the strobe low (61_bus_dma_controllers.md R372). -/
def padShift (shift : Byte) : Byte := (shift >>> 1) ||| 0x80#8

/-- The Byte a controller read gives (61_bus_dma_controllers.md R372). -/
def padByte (shift bus : Byte) : Byte := (bus &&& 0xE0#8) ||| bitAt 8 (bit shift 0) 0

/-- The controllers after a read of controller 1 (61_bus_dma_controllers.md R372). -/
def Pads.read1 (p : Pads) : Pads := if p.strobe then p else { p with shift1 := padShift p.shift1 }

/-- The controllers after a read of controller 2 (61_bus_dma_controllers.md R372). -/
def Pads.read2 (p : Pads) : Pads := if p.strobe then p else { p with shift2 := padShift p.shift2 }

/-- The strobe write (61_bus_dma_controllers.md R371). -/
def Pads.writeStrobe (p : Pads) (b : Byte) : Pads :=
  let p := if !p.strobe && bit b 0 then { p with shift1 := p.snapshot1, shift2 := p.snapshot2 } else p
  { p with strobe := bit b 0 }

/-! ### Read -/

/-- The result of a read and the state after its side effects, before the bus latch is set: the first
matching row of 20_memory.md R90. -/
def busReadRow (s : State) (a : Word) : Byte × State :=
  if a.toNat < 0x2000 then (Cells.read s.ram (a.toNat % 0x0800), s)
  else if a.toNat < 0x4000 then ppuRegRead s (a.toNat % 8)
  else if a.toNat = 0x4015 then (s.apu.statusByte s.dataBus, s.setApu s.apu.ackFrameIrq)
  else if a.toNat = 0x4016 then (padByte s.pads.shift1 s.dataBus, s.setPads s.pads.read1)
  else if a.toNat = 0x4017 then (padByte s.pads.shift2 s.dataBus, s.setPads s.pads.read2)
  else if a.toNat < 0x4020 then (s.dataBus, s)
  else (mapperCpuRead s a, s)

/-- `Read(a)` (00_scope.md R13, 20_memory.md R90, R95).  No read is refused (64_mappers.md R606). -/
def busRead (s : State) (a : Word) : Byte × State :=
  let r := busReadRow s a
  (r.1, r.2.setDataBus r.1)

/-! ### OAM DMA -/

/-- Byte `i` of an OAM DMA from page `base` (61_bus_dma_controllers.md R360, R361). -/
def dmaByte (base : Word) (s : State) (i : Nat) : State :=
  let r := busRead s (base + BitVec.ofNat 16 i)
  r.2.setPpu { r.2.ppu with oam := Cells.write r.2.ppu.oam ((r.2.ppu.oamAddr.toNat + i) % 256) r.1 }

/-- The cycles an OAM DMA adds, by the parity of `cycles` (61_bus_dma_controllers.md R362). -/
def dmaStall (cycles : Nat) : Nat := 513 + cycles % 2

/-- The copy of an OAM DMA of page `v`: 256 Bytes in ascending order (61_bus_dma_controllers.md R360). -/
def dmaCopy (s : State) (v : Byte) : State := (List.range 256).foldl (dmaByte (v ++ 0#8)) s

/-- OAM DMA of page `v` (61_bus_dma_controllers.md R360). -/
def oamDma (s : State) (v : Byte) : State :=
  let t := dmaCopy s v
  t.setPendingStall (t.pendingStall + dmaStall t.cpu.cycles)

/-! ### Write -/

/-- The row of a write: the first matching row of 20_memory.md R90. -/
def busWriteRow (s : State) (a : Word) (v : Byte) : State :=
  if a.toNat < 0x2000 then s.setRam (Cells.write s.ram (a.toNat % 0x0800) v)
  else if a.toNat < 0x4000 then ppuRegWrite s (a.toNat % 8) v
  else if a.toNat < 0x4014 then s.setApu (s.apu.writeChannel (a.toNat % 32) v)
  else if a.toNat = 0x4014 then oamDma s v
  else if a.toNat = 0x4015 then s.setApu (s.apu.writeEnable v)
  else if a.toNat = 0x4016 then s.setPads (s.pads.writeStrobe v)
  else if a.toNat = 0x4017 then s.setApu (s.apu.writeFrame v)
  else if a.toNat < 0x4020 then s
  else mapperCpuWrite s a v

/-- The effect of a write that is not refused: the bus latch, then the row (20_memory.md R95). -/
def busStore (s : State) (a : Word) (v : Byte) : State := busWriteRow (s.setDataBus v) a v

/-- A write to `a` is refused (60_exceptions.md R302, 64_mappers.md R607). -/
def writeRefused (s : State) (a : Word) : Bool := s.params.strictMapperAccess && writeMeaningless s a

/-- `Write(a, v)` (00_scope.md R13, 20_memory.md R90, R95).  A refused write has no effect
(60_exceptions.md R302). -/
def busWrite (s : State) (a : Word) (v : Byte) : Result :=
  if writeRefused s a then .fault (.badAccess a .write s) else .next (busStore s a v)

end Sys2Proof.Machine
end

