-- ==== Sys2Proof/Machine/Flags.lean ====
section
/-! DEFINITION. Every flag and result computation of the instruction set, and P as a Byte. -/

namespace Sys2Proof.Machine

/-- `setZN(v)` (00_scope.md R12). -/
def Flags.setZN (p : Flags) (v : Byte) : Flags := { p with z := v == 0#8, n := bit v 7 }

/-- P read as a Byte: `N V 1 0 D I Z C` (10_state.md R26). -/
def Flags.toByte (p : Flags) : Byte :=
  BitVec.ofBool p.n ++ BitVec.ofBool p.v ++ 1#1 ++ 0#1 ++ BitVec.ofBool p.d ++ BitVec.ofBool p.i ++
    BitVec.ofBool p.z ++ BitVec.ofBool p.c

/-- The copy of P a push writes: bits 5 and 4 set by PHP and BRK, bit 5 only by an NMI or IRQ
sequence (10_state.md R26). -/
def Flags.pushed (p : Flags) (fromInstruction : Bool) : Byte :=
  p.toByte ||| (if fromInstruction then 0x30#8 else 0x20#8)

/-- The six stored flags of a pulled Byte; bits 5 and 4 are ignored (10_state.md R26, 42_stack.md
R193). -/
def Flags.ofByte (b : Byte) : Flags where
  c := bit b 0
  z := bit b 1
  i := bit b 2
  d := bit b 3
  v := bit b 6
  n := bit b 7

/-- A result Byte and the flags after it. -/
structure Computed where
  value : Byte
  flags : Flags
  deriving DecidableEq, Repr

/-- `sum` of 44_arithmetic_compare.md R210: an integer in 0..511. -/
def adcSum (a m : Byte) (carry : Bool) : Nat := a.toNat + m.toNat + bitNat carry

/-- ADC (44_arithmetic_compare.md R210); D is not consulted. -/
def adc (a m : Byte) (p : Flags) : Computed :=
  let sum := adcSum a m p.c
  let r := BitVec.ofNat 8 sum
  { value := r
    flags := { p with c := decide (255 < sum), v := ((a ^^^ r) &&& (m ^^^ r) &&& 0x80#8) != 0#8 }.setZN r }

/-- SBC: ADC with the operand complemented (44_arithmetic_compare.md R211). -/
def sbc (a m : Byte) (p : Flags) : Computed := adc a (m ^^^ 0xFF#8) p

/-- The flags of CMP, CPX, CPY for register `r` and operand `m`
(44_arithmetic_compare.md R212 to R214). -/
def compare (r m : Byte) (p : Flags) : Flags :=
  { p with c := decide (m.toNat ≤ r.toNat), z := r == m, n := bit (r - m) 7 }

/-- The flags of BIT (43_logic.md R203). -/
def bitTest (a m : Byte) (p : Flags) : Flags :=
  { p with z := (a &&& m) == 0#8, n := bit m 7, v := bit m 6 }

/-- INC (45_incdec.md R220). -/
def increment (m : Byte) (p : Flags) : Computed := { value := m + 1#8, flags := p.setZN (m + 1#8) }

/-- DEC (45_incdec.md R221). -/
def decrement (m : Byte) (p : Flags) : Computed := { value := m - 1#8, flags := p.setZN (m - 1#8) }

/-- ASL (46_shift_rotate.md R230). -/
def asl (m : Byte) (p : Flags) : Computed :=
  let r := m <<< 1
  { value := r, flags := { p with c := bit m 7 }.setZN r }

/-- LSR (46_shift_rotate.md R231). -/
def lsr (m : Byte) (p : Flags) : Computed :=
  let r := m >>> 1
  { value := r, flags := { p with c := bit m 0 }.setZN r }

/-- ROL (46_shift_rotate.md R232). -/
def rol (m : Byte) (p : Flags) : Computed :=
  let r := (m <<< 1) ||| bitAt 8 p.c 0
  { value := r, flags := { p with c := bit m 7 }.setZN r }

/-- ROR (46_shift_rotate.md R233). -/
def ror (m : Byte) (p : Flags) : Computed :=
  let r := (m >>> 1) ||| bitAt 8 p.c 7
  { value := r, flags := { p with c := bit m 0 }.setZN r }

end Sys2Proof.Machine
end

