-- ==== Sys2Proof/Machine/Ops.lean ====
section
/-! DEFINITION. The operations the meanings share: two-Byte reads, the stack, the end of an
instruction, taking an interrupt and returning from one. -/

namespace Sys2Proof.Machine

/-! ### Two-Byte reads, low byte first (00_scope.md R13) -/

/-- A Word read from two addresses, `lo` first. -/
def readPair (s : State) (lo hi : Word) : Word × State :=
  let r := busRead s lo
  let q := busRead r.2 hi
  (wordOf q.1 r.1, q.2)

/-- `Read16(a)` (00_scope.md R13). -/
def read16 (s : State) (a : Word) : Word × State := readPair s a (a + 1#16)

/-- The address of a page-zero Byte (30_encoding.md R132). -/
def zeroPage (z : Byte) : Word := z.setWidth 16

/-- `Read16ZP(z)`: the pointer wraps inside page zero (00_scope.md R13). -/
def read16Zp (s : State) (z : Byte) : Word × State := readPair s (zeroPage z) (zeroPage (z + 1#8))

/-- The pointer read of JMP indirect: the high byte comes from the pointer's own page
(47_jump_branch.md R241). -/
def readIndirect (s : State) (ptr : Word) : Word × State :=
  readPair s ptr (wordOf (hiByte ptr) (loByte ptr + 1#8))

/-! ### Writes of one CPU register -/

/-- `SP <- v`. -/
def Cpu.setSp (c : Cpu) (v : Byte) : Cpu := { c with sp := v }
/-- `PC <- v`. -/
def Cpu.setPc (c : Cpu) (v : Word) : Cpu := { c with pc := v }
/-- `P <- p`. -/
def Cpu.setP (c : Cpu) (p : Flags) : Cpu := { c with p := p }

/-! ### The stack (00_scope.md R14) -/

/-- The address of the stack Byte `sp` designates (10_state.md R22). -/
def stackAddr (sp : Byte) : Word := 0x0100#16 + sp.setWidth 16

/-- `Push(v)`.  The stack is RAM, whose writes are never refused (42_stack.md). -/
def push (s : State) (v : Byte) : State :=
  let t := busStore s (stackAddr s.cpu.sp) v
  t.setCpu (t.cpu.setSp (t.cpu.sp - 1#8))

/-- `Push16(w)`. -/
def push16 (s : State) (w : Word) : State := push (push s (hiByte w)) (loByte w)

/-- `Pull()`. -/
def pull (s : State) : Byte × State :=
  let t := s.setCpu (s.cpu.setSp (s.cpu.sp + 1#8))
  busRead t (stackAddr t.cpu.sp)

/-- `Pull16()`. -/
def pull16 (s : State) : Word × State :=
  let r := pull s
  let q := pull r.2
  (wordOf q.1 r.1, q.2)

/-! ### The end of an instruction (00_scope.md R16) -/

/-- The instruction ends after `len` bytes and `cyc` cycles. -/
def finish (len cyc : Nat) (s : State) : State :=
  (s.setCpu (s.cpu.setPc (s.cpu.pc + BitVec.ofNat 16 len))).setCyc cyc

/-- The instruction ends at `target` after `cyc` cycles. -/
def jumpTo (target : Word) (cyc : Nat) (s : State) : State :=
  (s.setCpu (s.cpu.setPc target)).setCyc cyc

/-- A change of the CPU registers alone, one byte long, `cyc` cycles. -/
def registerOp (cyc : Nat) (f : Cpu → Cpu) (s : State) : State := finish 1 cyc (s.setCpu (f s.cpu))

/-! ### Register writes that set Z and N (00_scope.md R12) -/

/-- `A <- v; setZN(A)`. -/
def Cpu.loadA (c : Cpu) (v : Byte) : Cpu := { c with a := v, p := c.p.setZN v }
/-- `X <- v; setZN(X)`. -/
def Cpu.loadX (c : Cpu) (v : Byte) : Cpu := { c with x := v, p := c.p.setZN v }
/-- `Y <- v; setZN(Y)`. -/
def Cpu.loadY (c : Cpu) (v : Byte) : Cpu := { c with y := v, p := c.p.setZN v }
/-- `A` and the flags from a computation. -/
def Cpu.setAcc (c : Cpu) (r : Computed) : Cpu := { c with a := r.value, p := r.flags }
/-! ### Taking an interrupt and returning from one -/

/-- The interrupt entry of NMI and IRQ (60_exceptions.md R320) and of BRK (49_system.md R270): the
return address `ret` and P are pushed, I is set, PC is loaded from the vector. -/
def takeInterrupt (vector ret : Word) (fromInstruction : Bool) (s : State) : State :=
  let t := push (push16 s ret) (s.cpu.p.pushed fromInstruction)
  let r := read16 (t.setCpu (t.cpu.setP { t.cpu.p with i := true })) vector
  r.2.setCpu (r.2.cpu.setPc r.1)

/-- The return of RTI: P, then PC, pulled (49_system.md R271, 60_exceptions.md R322). -/
def returnFromInterrupt (s : State) : State :=
  let r := pull s
  let q := pull16 (r.2.setCpu (r.2.cpu.setP (Flags.ofByte r.1)))
  q.2.setCpu (q.2.cpu.setPc q.1)

/-- `irq_line` (10_state.md R30, 60_exceptions.md R316). -/
def State.irqLine (s : State) : Bool :=
  s.apu.frame.frameIrq || s.apu.dmc.irqFlag || irqPending s.mapper

end Sys2Proof.Machine
end

