-- ==== Sys2Proof/Machine/Operands.lean ====
section
/-! DEFINITION. The addressing modes (30_encoding.md section 2) and the shapes of instruction built on
them: reading, storing, read-modify-write, accumulator, branch. -/

namespace Sys2Proof.Machine

/-- The modes with an effective address, each with its operand (30_encoding.md R135, R136, R139). -/
inductive MemMode where
  | zp (z : Byte)
  | zpx (z : Byte)
  | zpy (z : Byte)
  | abs (a : Word)
  | abx (a : Word)
  | aby (a : Word)
  | izx (z : Byte)
  | izy (z : Byte)
  deriving DecidableEq, Repr

/-- An operand of a reading instruction: immediate (30_encoding.md R134) or in memory. -/
inductive Operand where
  | imm (v : Byte)
  | mem (m : MemMode)
  deriving DecidableEq, Repr

/-- The length of an instruction with the mode (30_encoding.md R130). -/
def MemMode.length : MemMode → Nat
  | .zp _ | .zpx _ | .zpy _ | .izx _ | .izy _ => 2
  | .abs _ | .abx _ | .aby _ => 3

/-- The length of an instruction with the operand (30_encoding.md R130). -/
def Operand.length : Operand → Nat
  | .imm _ => 2
  | .mem m => m.length

/-- An effective address, whether the index crossed a page, and the state after the pointer reads. -/
structure Located where
  ea : Word
  crossed : Bool
  after : State

/-- `base` indexed by `index` (30_encoding.md R136, R139). -/
def indexed (base : Word) (index : Byte) (s : State) : Located :=
  let ea := base + index.setWidth 16
  { ea := ea, crossed := hiByte base != hiByte ea, after := s }

/-- The effective address of a mode (30_encoding.md R135, R136, R139). -/
def MemMode.locate (m : MemMode) (s : State) : Located :=
  match m with
  | .zp z => ⟨zeroPage z, false, s⟩
  | .zpx z => ⟨zeroPage (z + s.cpu.x), false, s⟩
  | .zpy z => ⟨zeroPage (z + s.cpu.y), false, s⟩
  | .abs a => ⟨a, false, s⟩
  | .abx a => indexed a s.cpu.x s
  | .aby a => indexed a s.cpu.y s
  | .izx z =>
    let r := read16Zp s (z + s.cpu.x)
    ⟨r.1, false, r.2⟩
  | .izy z =>
    let r := read16Zp s z
    indexed r.1 s.cpu.y r.2

/-- The operand Byte, whether the index crossed a page, and the state after the reads. -/
structure Fetched where
  value : Byte
  crossed : Bool
  after : State

/-- `M` (00_scope.md R16): the immediate, or one read of the effective address. -/
def Operand.fetch (o : Operand) (s : State) : Fetched :=
  match o with
  | .imm v => ⟨v, false, s⟩
  | .mem m =>
    let l := m.locate s
    let r := busRead l.after l.ea
    ⟨r.1, l.crossed, r.2⟩

/-- A reading instruction (40_load_store.md R176): fetch `M`, let `f` write registers and flags, add a
cycle when the index crossed a page (30_encoding.md R143: every reading opcode with an indexed mode
that can cross is marked `+`). -/
def readOp (f : Cpu → Byte → Cpu) (o : Operand) (base : Nat) (s : State) : State :=
  let r := o.fetch s
  finish o.length (base + bitNat r.crossed) (r.after.setCpu (f r.after.cpu r.value))

/-- A store (40_load_store.md R173 to R176): no read of `ea`, no page-cross penalty. -/
def storeOp (value : Cpu → Byte) (m : MemMode) (base : Nat) (s : State) : Result :=
  let l := m.locate s
  andThen (busWrite l.after l.ea (value s.cpu)) fun t => .next (finish m.length base t)

/-- A read-modify-write instruction (40_load_store.md R176, 20_memory.md R101): one read and one write
of `ea`; the flags are set after the write. -/
def rmwOp (f : Byte → Flags → Computed) (m : MemMode) (base : Nat) (s : State) : Result :=
  let l := m.locate s
  let r := busRead l.after l.ea
  let c := f r.1 s.cpu.p
  andThen (busWrite r.2 l.ea c.value) fun t =>
    .next (finish m.length base (t.setCpu (t.cpu.setP c.flags)))

/-- A shift or rotate of the accumulator (30_encoding.md R133, 46_shift_rotate.md). -/
def accOp (f : Byte → Flags → Computed) (cyc : Nat) (s : State) : State :=
  registerOp cyc (fun c => c.setAcc (f c.a c.p)) s

/-- The target of a branch and whether it lies in another page than the next instruction
(30_encoding.md R137). -/
def branchTarget (pc : Word) (d : Byte) : Word × Bool :=
  let next := pc + 2#16
  let target := next + d.signExtend 16
  (target, hiByte target != hiByte next)

/-- A conditional branch (47_jump_branch.md R244). -/
def branch (cond : Bool) (d : Byte) (s : State) : State :=
  if cond then
    let b := branchTarget s.cpu.pc d
    jumpTo b.1 (3 + bitNat b.2) s
  else finish 2 2 s

end Sys2Proof.Machine
end

