-- ==== Sys2Proof/Machine/Arithmetic.lean ====
section
/-! DEFINITION. Arithmetic and compare instructions (44_arithmetic_compare.md): one meaning per
opcode-table row. -/

namespace Sys2Proof.Machine

/-- ADC immediate (R210). -/
def execAdcImm (v : Byte) (s : State) : Result :=
  .next (readOp (fun c m => c.setAcc (adc c.a m c.p)) (.imm v) 2 s)

/-- ADC zero page (R210). -/
def execAdcZp (z : Byte) (s : State) : Result :=
  .next (readOp (fun c m => c.setAcc (adc c.a m c.p)) (.mem (.zp z)) 3 s)

/-- ADC zero page,X (R210). -/
def execAdcZpx (z : Byte) (s : State) : Result :=
  .next (readOp (fun c m => c.setAcc (adc c.a m c.p)) (.mem (.zpx z)) 4 s)

/-- ADC absolute (R210). -/
def execAdcAbs (a : Word) (s : State) : Result :=
  .next (readOp (fun c m => c.setAcc (adc c.a m c.p)) (.mem (.abs a)) 4 s)

/-- ADC absolute,X (R210). -/
def execAdcAbx (a : Word) (s : State) : Result :=
  .next (readOp (fun c m => c.setAcc (adc c.a m c.p)) (.mem (.abx a)) 4 s)

/-- ADC absolute,Y (R210). -/
def execAdcAby (a : Word) (s : State) : Result :=
  .next (readOp (fun c m => c.setAcc (adc c.a m c.p)) (.mem (.aby a)) 4 s)

/-- ADC (indirect,X) (R210). -/
def execAdcIzx (z : Byte) (s : State) : Result :=
  .next (readOp (fun c m => c.setAcc (adc c.a m c.p)) (.mem (.izx z)) 6 s)

/-- ADC (indirect),Y (R210). -/
def execAdcIzy (z : Byte) (s : State) : Result :=
  .next (readOp (fun c m => c.setAcc (adc c.a m c.p)) (.mem (.izy z)) 5 s)

/-- SBC immediate (R211). -/
def execSbcImm (v : Byte) (s : State) : Result :=
  .next (readOp (fun c m => c.setAcc (sbc c.a m c.p)) (.imm v) 2 s)

/-- SBC zero page (R211). -/
def execSbcZp (z : Byte) (s : State) : Result :=
  .next (readOp (fun c m => c.setAcc (sbc c.a m c.p)) (.mem (.zp z)) 3 s)

/-- SBC zero page,X (R211). -/
def execSbcZpx (z : Byte) (s : State) : Result :=
  .next (readOp (fun c m => c.setAcc (sbc c.a m c.p)) (.mem (.zpx z)) 4 s)

/-- SBC absolute (R211). -/
def execSbcAbs (a : Word) (s : State) : Result :=
  .next (readOp (fun c m => c.setAcc (sbc c.a m c.p)) (.mem (.abs a)) 4 s)

/-- SBC absolute,X (R211). -/
def execSbcAbx (a : Word) (s : State) : Result :=
  .next (readOp (fun c m => c.setAcc (sbc c.a m c.p)) (.mem (.abx a)) 4 s)

/-- SBC absolute,Y (R211). -/
def execSbcAby (a : Word) (s : State) : Result :=
  .next (readOp (fun c m => c.setAcc (sbc c.a m c.p)) (.mem (.aby a)) 4 s)

/-- SBC (indirect,X) (R211). -/
def execSbcIzx (z : Byte) (s : State) : Result :=
  .next (readOp (fun c m => c.setAcc (sbc c.a m c.p)) (.mem (.izx z)) 6 s)

/-- SBC (indirect),Y (R211). -/
def execSbcIzy (z : Byte) (s : State) : Result :=
  .next (readOp (fun c m => c.setAcc (sbc c.a m c.p)) (.mem (.izy z)) 5 s)

/-- CMP immediate (R212). -/
def execCmpImm (v : Byte) (s : State) : Result :=
  .next (readOp (fun c m => c.setP (compare c.a m c.p)) (.imm v) 2 s)

/-- CMP zero page (R212). -/
def execCmpZp (z : Byte) (s : State) : Result :=
  .next (readOp (fun c m => c.setP (compare c.a m c.p)) (.mem (.zp z)) 3 s)

/-- CMP zero page,X (R212). -/
def execCmpZpx (z : Byte) (s : State) : Result :=
  .next (readOp (fun c m => c.setP (compare c.a m c.p)) (.mem (.zpx z)) 4 s)

/-- CMP absolute (R212). -/
def execCmpAbs (a : Word) (s : State) : Result :=
  .next (readOp (fun c m => c.setP (compare c.a m c.p)) (.mem (.abs a)) 4 s)

/-- CMP absolute,X (R212). -/
def execCmpAbx (a : Word) (s : State) : Result :=
  .next (readOp (fun c m => c.setP (compare c.a m c.p)) (.mem (.abx a)) 4 s)

/-- CMP absolute,Y (R212). -/
def execCmpAby (a : Word) (s : State) : Result :=
  .next (readOp (fun c m => c.setP (compare c.a m c.p)) (.mem (.aby a)) 4 s)

/-- CMP (indirect,X) (R212). -/
def execCmpIzx (z : Byte) (s : State) : Result :=
  .next (readOp (fun c m => c.setP (compare c.a m c.p)) (.mem (.izx z)) 6 s)

/-- CMP (indirect),Y (R212). -/
def execCmpIzy (z : Byte) (s : State) : Result :=
  .next (readOp (fun c m => c.setP (compare c.a m c.p)) (.mem (.izy z)) 5 s)

/-- CPX immediate (R213). -/
def execCpxImm (v : Byte) (s : State) : Result :=
  .next (readOp (fun c m => c.setP (compare c.x m c.p)) (.imm v) 2 s)

/-- CPX zero page (R213). -/
def execCpxZp (z : Byte) (s : State) : Result :=
  .next (readOp (fun c m => c.setP (compare c.x m c.p)) (.mem (.zp z)) 3 s)

/-- CPX absolute (R213). -/
def execCpxAbs (a : Word) (s : State) : Result :=
  .next (readOp (fun c m => c.setP (compare c.x m c.p)) (.mem (.abs a)) 4 s)

/-- CPY immediate (R214). -/
def execCpyImm (v : Byte) (s : State) : Result :=
  .next (readOp (fun c m => c.setP (compare c.y m c.p)) (.imm v) 2 s)

/-- CPY zero page (R214). -/
def execCpyZp (z : Byte) (s : State) : Result :=
  .next (readOp (fun c m => c.setP (compare c.y m c.p)) (.mem (.zp z)) 3 s)

/-- CPY absolute (R214). -/
def execCpyAbs (a : Word) (s : State) : Result :=
  .next (readOp (fun c m => c.setP (compare c.y m c.p)) (.mem (.abs a)) 4 s)

end Sys2Proof.Machine
end

