-- ==== Sys2Proof/Machine/FlagOps.lean ====
section
/-! DEFINITION. Flag instructions (48_flag_ops.md): one meaning per
opcode-table row. -/

namespace Sys2Proof.Machine

/-- CLC (R260). -/
def execClc (s : State) : Result := .next (registerOp 2 (fun c => c.setP { c.p with c := false }) s)

/-- SEC (R261). -/
def execSec (s : State) : Result := .next (registerOp 2 (fun c => c.setP { c.p with c := true }) s)

/-- CLI (R262). -/
def execCli (s : State) : Result := .next (registerOp 2 (fun c => c.setP { c.p with i := false }) s)

/-- SEI (R263). -/
def execSei (s : State) : Result := .next (registerOp 2 (fun c => c.setP { c.p with i := true }) s)

/-- CLD (R264). -/
def execCld (s : State) : Result := .next (registerOp 2 (fun c => c.setP { c.p with d := false }) s)

/-- SED (R265). -/
def execSed (s : State) : Result := .next (registerOp 2 (fun c => c.setP { c.p with d := true }) s)

/-- CLV (R266). -/
def execClv (s : State) : Result := .next (registerOp 2 (fun c => c.setP { c.p with v := false }) s)

end Sys2Proof.Machine
end

