-- ==== Sys2Proof/Machine/IncDec.lean ====
section
/-! DEFINITION. Increment and decrement instructions (45_incdec.md): one meaning per
opcode-table row. -/

namespace Sys2Proof.Machine

/-- INC zero page (R220). -/
def execIncZp (z : Byte) (s : State) : Result := rmwOp increment (.zp z) 5 s

/-- INC zero page,X (R220). -/
def execIncZpx (z : Byte) (s : State) : Result := rmwOp increment (.zpx z) 6 s

/-- INC absolute (R220). -/
def execIncAbs (a : Word) (s : State) : Result := rmwOp increment (.abs a) 6 s

/-- INC absolute,X (R220). -/
def execIncAbx (a : Word) (s : State) : Result := rmwOp increment (.abx a) 7 s

/-- DEC zero page (R221). -/
def execDecZp (z : Byte) (s : State) : Result := rmwOp decrement (.zp z) 5 s

/-- DEC zero page,X (R221). -/
def execDecZpx (z : Byte) (s : State) : Result := rmwOp decrement (.zpx z) 6 s

/-- DEC absolute (R221). -/
def execDecAbs (a : Word) (s : State) : Result := rmwOp decrement (.abs a) 6 s

/-- DEC absolute,X (R221). -/
def execDecAbx (a : Word) (s : State) : Result := rmwOp decrement (.abx a) 7 s

/-- INX (R222). -/
def execInx (s : State) : Result := .next (registerOp 2 (fun c => c.loadX (c.x + 1#8)) s)

/-- INY (R223). -/
def execIny (s : State) : Result := .next (registerOp 2 (fun c => c.loadY (c.y + 1#8)) s)

/-- DEX (R224). -/
def execDex (s : State) : Result := .next (registerOp 2 (fun c => c.loadX (c.x - 1#8)) s)

/-- DEY (R225). -/
def execDey (s : State) : Result := .next (registerOp 2 (fun c => c.loadY (c.y - 1#8)) s)

end Sys2Proof.Machine
end

