-- ==== Sys2Proof/Machine/Jump.lean ====
section
/-! DEFINITION. Jumps, subroutines and branches (47_jump_branch.md): one meaning per
opcode-table row. -/

namespace Sys2Proof.Machine

/-- JMP absolute (R240). -/
def execJmpAbs (a : Word) (s : State) : Result := .next (jumpTo a 3 s)

/-- JMP indirect (R240). -/
def execJmpInd (a : Word) (s : State) : Result :=
  let r := readIndirect s a
  .next (jumpTo r.1 5 r.2)

/-- JSR absolute: jump to subroutine (R242). -/
def execJsr (a : Word) (s : State) : Result := .next (jumpTo a 6 (push16 s (s.cpu.pc + 2#16)))

/-- RTS: return from subroutine (R243). -/
def execRts (s : State) : Result :=
  let r := pull16 s
  .next (jumpTo (r.1 + 1#16) 6 r.2)

/-- BCC (R245). -/
def execBcc (d : Byte) (s : State) : Result := .next (branch (!s.cpu.p.c) d s)

/-- BCS (R246). -/
def execBcs (d : Byte) (s : State) : Result := .next (branch s.cpu.p.c d s)

/-- BEQ (R247). -/
def execBeq (d : Byte) (s : State) : Result := .next (branch s.cpu.p.z d s)

/-- BNE (R248). -/
def execBne (d : Byte) (s : State) : Result := .next (branch (!s.cpu.p.z) d s)

/-- BMI (R249). -/
def execBmi (d : Byte) (s : State) : Result := .next (branch s.cpu.p.n d s)

/-- BPL (R250). -/
def execBpl (d : Byte) (s : State) : Result := .next (branch (!s.cpu.p.n) d s)

/-- BVC (R251). -/
def execBvc (d : Byte) (s : State) : Result := .next (branch (!s.cpu.p.v) d s)

/-- BVS (R252). -/
def execBvs (d : Byte) (s : State) : Result := .next (branch s.cpu.p.v d s)

end Sys2Proof.Machine
end

