-- ==== Sys2Proof/Machine/LoadStore.lean ====
section
/-! DEFINITION. Loads and stores (40_load_store.md): one meaning per
opcode-table row. -/

namespace Sys2Proof.Machine

/-- LDA immediate (R170). -/
def execLdaImm (v : Byte) (s : State) : Result := .next (readOp Cpu.loadA (.imm v) 2 s)

/-- LDA zero page (R170). -/
def execLdaZp (z : Byte) (s : State) : Result := .next (readOp Cpu.loadA (.mem (.zp z)) 3 s)

/-- LDA zero page,X (R170). -/
def execLdaZpx (z : Byte) (s : State) : Result := .next (readOp Cpu.loadA (.mem (.zpx z)) 4 s)

/-- LDA absolute (R170). -/
def execLdaAbs (a : Word) (s : State) : Result := .next (readOp Cpu.loadA (.mem (.abs a)) 4 s)

/-- LDA absolute,X (R170). -/
def execLdaAbx (a : Word) (s : State) : Result := .next (readOp Cpu.loadA (.mem (.abx a)) 4 s)

/-- LDA absolute,Y (R170). -/
def execLdaAby (a : Word) (s : State) : Result := .next (readOp Cpu.loadA (.mem (.aby a)) 4 s)

/-- LDA (indirect,X) (R170). -/
def execLdaIzx (z : Byte) (s : State) : Result := .next (readOp Cpu.loadA (.mem (.izx z)) 6 s)

/-- LDA (indirect),Y (R170). -/
def execLdaIzy (z : Byte) (s : State) : Result := .next (readOp Cpu.loadA (.mem (.izy z)) 5 s)

/-- LDX immediate (R171). -/
def execLdxImm (v : Byte) (s : State) : Result := .next (readOp Cpu.loadX (.imm v) 2 s)

/-- LDX zero page (R171). -/
def execLdxZp (z : Byte) (s : State) : Result := .next (readOp Cpu.loadX (.mem (.zp z)) 3 s)

/-- LDX zero page,Y (R171). -/
def execLdxZpy (z : Byte) (s : State) : Result := .next (readOp Cpu.loadX (.mem (.zpy z)) 4 s)

/-- LDX absolute (R171). -/
def execLdxAbs (a : Word) (s : State) : Result := .next (readOp Cpu.loadX (.mem (.abs a)) 4 s)

/-- LDX absolute,Y (R171). -/
def execLdxAby (a : Word) (s : State) : Result := .next (readOp Cpu.loadX (.mem (.aby a)) 4 s)

/-- LDY immediate (R172). -/
def execLdyImm (v : Byte) (s : State) : Result := .next (readOp Cpu.loadY (.imm v) 2 s)

/-- LDY zero page (R172). -/
def execLdyZp (z : Byte) (s : State) : Result := .next (readOp Cpu.loadY (.mem (.zp z)) 3 s)

/-- LDY zero page,X (R172). -/
def execLdyZpx (z : Byte) (s : State) : Result := .next (readOp Cpu.loadY (.mem (.zpx z)) 4 s)

/-- LDY absolute (R172). -/
def execLdyAbs (a : Word) (s : State) : Result := .next (readOp Cpu.loadY (.mem (.abs a)) 4 s)

/-- LDY absolute,X (R172). -/
def execLdyAbx (a : Word) (s : State) : Result := .next (readOp Cpu.loadY (.mem (.abx a)) 4 s)

/-- STA zero page (R173). -/
def execStaZp (z : Byte) (s : State) : Result := storeOp Cpu.a (.zp z) 3 s

/-- STA zero page,X (R173). -/
def execStaZpx (z : Byte) (s : State) : Result := storeOp Cpu.a (.zpx z) 4 s

/-- STA absolute (R173). -/
def execStaAbs (a : Word) (s : State) : Result := storeOp Cpu.a (.abs a) 4 s

/-- STA absolute,X (R173). -/
def execStaAbx (a : Word) (s : State) : Result := storeOp Cpu.a (.abx a) 5 s

/-- STA absolute,Y (R173). -/
def execStaAby (a : Word) (s : State) : Result := storeOp Cpu.a (.aby a) 5 s

/-- STA (indirect,X) (R173). -/
def execStaIzx (z : Byte) (s : State) : Result := storeOp Cpu.a (.izx z) 6 s

/-- STA (indirect),Y (R173). -/
def execStaIzy (z : Byte) (s : State) : Result := storeOp Cpu.a (.izy z) 6 s

/-- STX zero page (R174). -/
def execStxZp (z : Byte) (s : State) : Result := storeOp Cpu.x (.zp z) 3 s

/-- STX zero page,Y (R174). -/
def execStxZpy (z : Byte) (s : State) : Result := storeOp Cpu.x (.zpy z) 4 s

/-- STX absolute (R174). -/
def execStxAbs (a : Word) (s : State) : Result := storeOp Cpu.x (.abs a) 4 s

/-- STY zero page (R175). -/
def execStyZp (z : Byte) (s : State) : Result := storeOp Cpu.y (.zp z) 3 s

/-- STY zero page,X (R175). -/
def execStyZpx (z : Byte) (s : State) : Result := storeOp Cpu.y (.zpx z) 4 s

/-- STY absolute (R175). -/
def execStyAbs (a : Word) (s : State) : Result := storeOp Cpu.y (.abs a) 4 s

end Sys2Proof.Machine
end

