-- ==== Sys2Proof/Machine/Logic.lean ====
section
/-! DEFINITION. Logic instructions (43_logic.md): one meaning per
opcode-table row. -/

namespace Sys2Proof.Machine

/-- AND immediate (R200). -/
def execAndImm (v : Byte) (s : State) : Result :=
  .next (readOp (fun c m => c.loadA (c.a &&& m)) (.imm v) 2 s)

/-- AND zero page (R200). -/
def execAndZp (z : Byte) (s : State) : Result :=
  .next (readOp (fun c m => c.loadA (c.a &&& m)) (.mem (.zp z)) 3 s)

/-- AND zero page,X (R200). -/
def execAndZpx (z : Byte) (s : State) : Result :=
  .next (readOp (fun c m => c.loadA (c.a &&& m)) (.mem (.zpx z)) 4 s)

/-- AND absolute (R200). -/
def execAndAbs (a : Word) (s : State) : Result :=
  .next (readOp (fun c m => c.loadA (c.a &&& m)) (.mem (.abs a)) 4 s)

/-- AND absolute,X (R200). -/
def execAndAbx (a : Word) (s : State) : Result :=
  .next (readOp (fun c m => c.loadA (c.a &&& m)) (.mem (.abx a)) 4 s)

/-- AND absolute,Y (R200). -/
def execAndAby (a : Word) (s : State) : Result :=
  .next (readOp (fun c m => c.loadA (c.a &&& m)) (.mem (.aby a)) 4 s)

/-- AND (indirect,X) (R200). -/
def execAndIzx (z : Byte) (s : State) : Result :=
  .next (readOp (fun c m => c.loadA (c.a &&& m)) (.mem (.izx z)) 6 s)

/-- AND (indirect),Y (R200). -/
def execAndIzy (z : Byte) (s : State) : Result :=
  .next (readOp (fun c m => c.loadA (c.a &&& m)) (.mem (.izy z)) 5 s)

/-- ORA immediate (R201). -/
def execOraImm (v : Byte) (s : State) : Result :=
  .next (readOp (fun c m => c.loadA (c.a ||| m)) (.imm v) 2 s)

/-- ORA zero page (R201). -/
def execOraZp (z : Byte) (s : State) : Result :=
  .next (readOp (fun c m => c.loadA (c.a ||| m)) (.mem (.zp z)) 3 s)

/-- ORA zero page,X (R201). -/
def execOraZpx (z : Byte) (s : State) : Result :=
  .next (readOp (fun c m => c.loadA (c.a ||| m)) (.mem (.zpx z)) 4 s)

/-- ORA absolute (R201). -/
def execOraAbs (a : Word) (s : State) : Result :=
  .next (readOp (fun c m => c.loadA (c.a ||| m)) (.mem (.abs a)) 4 s)

/-- ORA absolute,X (R201). -/
def execOraAbx (a : Word) (s : State) : Result :=
  .next (readOp (fun c m => c.loadA (c.a ||| m)) (.mem (.abx a)) 4 s)

/-- ORA absolute,Y (R201). -/
def execOraAby (a : Word) (s : State) : Result :=
  .next (readOp (fun c m => c.loadA (c.a ||| m)) (.mem (.aby a)) 4 s)

/-- ORA (indirect,X) (R201). -/
def execOraIzx (z : Byte) (s : State) : Result :=
  .next (readOp (fun c m => c.loadA (c.a ||| m)) (.mem (.izx z)) 6 s)

/-- ORA (indirect),Y (R201). -/
def execOraIzy (z : Byte) (s : State) : Result :=
  .next (readOp (fun c m => c.loadA (c.a ||| m)) (.mem (.izy z)) 5 s)

/-- EOR immediate (R202). -/
def execEorImm (v : Byte) (s : State) : Result :=
  .next (readOp (fun c m => c.loadA (c.a ^^^ m)) (.imm v) 2 s)

/-- EOR zero page (R202). -/
def execEorZp (z : Byte) (s : State) : Result :=
  .next (readOp (fun c m => c.loadA (c.a ^^^ m)) (.mem (.zp z)) 3 s)

/-- EOR zero page,X (R202). -/
def execEorZpx (z : Byte) (s : State) : Result :=
  .next (readOp (fun c m => c.loadA (c.a ^^^ m)) (.mem (.zpx z)) 4 s)

/-- EOR absolute (R202). -/
def execEorAbs (a : Word) (s : State) : Result :=
  .next (readOp (fun c m => c.loadA (c.a ^^^ m)) (.mem (.abs a)) 4 s)

/-- EOR absolute,X (R202). -/
def execEorAbx (a : Word) (s : State) : Result :=
  .next (readOp (fun c m => c.loadA (c.a ^^^ m)) (.mem (.abx a)) 4 s)

/-- EOR absolute,Y (R202). -/
def execEorAby (a : Word) (s : State) : Result :=
  .next (readOp (fun c m => c.loadA (c.a ^^^ m)) (.mem (.aby a)) 4 s)

/-- EOR (indirect,X) (R202). -/
def execEorIzx (z : Byte) (s : State) : Result :=
  .next (readOp (fun c m => c.loadA (c.a ^^^ m)) (.mem (.izx z)) 6 s)

/-- EOR (indirect),Y (R202). -/
def execEorIzy (z : Byte) (s : State) : Result :=
  .next (readOp (fun c m => c.loadA (c.a ^^^ m)) (.mem (.izy z)) 5 s)

/-- BIT zero page (R203). -/
def execBitZp (z : Byte) (s : State) : Result :=
  .next (readOp (fun c m => c.setP (bitTest c.a m c.p)) (.mem (.zp z)) 3 s)

/-- BIT absolute (R203). -/
def execBitAbs (a : Word) (s : State) : Result :=
  .next (readOp (fun c m => c.setP (bitTest c.a m c.p)) (.mem (.abs a)) 4 s)

end Sys2Proof.Machine
end

