-- ==== Sys2Proof/Machine/Shift.lean ====
section
/-! DEFINITION. Shift and rotate instructions (46_shift_rotate.md): one meaning per
opcode-table row. -/

namespace Sys2Proof.Machine

/-- ASL accumulator (R230). -/
def execAslAcc (s : State) : Result := .next (accOp asl 2 s)

/-- ASL zero page (R230). -/
def execAslZp (z : Byte) (s : State) : Result := rmwOp asl (.zp z) 5 s

/-- ASL zero page,X (R230). -/
def execAslZpx (z : Byte) (s : State) : Result := rmwOp asl (.zpx z) 6 s

/-- ASL absolute (R230). -/
def execAslAbs (a : Word) (s : State) : Result := rmwOp asl (.abs a) 6 s

/-- ASL absolute,X (R230). -/
def execAslAbx (a : Word) (s : State) : Result := rmwOp asl (.abx a) 7 s

/-- LSR accumulator (R231). -/
def execLsrAcc (s : State) : Result := .next (accOp lsr 2 s)

/-- LSR zero page (R231). -/
def execLsrZp (z : Byte) (s : State) : Result := rmwOp lsr (.zp z) 5 s

/-- LSR zero page,X (R231). -/
def execLsrZpx (z : Byte) (s : State) : Result := rmwOp lsr (.zpx z) 6 s

/-- LSR absolute (R231). -/
def execLsrAbs (a : Word) (s : State) : Result := rmwOp lsr (.abs a) 6 s

/-- LSR absolute,X (R231). -/
def execLsrAbx (a : Word) (s : State) : Result := rmwOp lsr (.abx a) 7 s

/-- ROL accumulator (R232). -/
def execRolAcc (s : State) : Result := .next (accOp rol 2 s)

/-- ROL zero page (R232). -/
def execRolZp (z : Byte) (s : State) : Result := rmwOp rol (.zp z) 5 s

/-- ROL zero page,X (R232). -/
def execRolZpx (z : Byte) (s : State) : Result := rmwOp rol (.zpx z) 6 s

/-- ROL absolute (R232). -/
def execRolAbs (a : Word) (s : State) : Result := rmwOp rol (.abs a) 6 s

/-- ROL absolute,X (R232). -/
def execRolAbx (a : Word) (s : State) : Result := rmwOp rol (.abx a) 7 s

/-- ROR accumulator (R233). -/
def execRorAcc (s : State) : Result := .next (accOp ror 2 s)

/-- ROR zero page (R233). -/
def execRorZp (z : Byte) (s : State) : Result := rmwOp ror (.zp z) 5 s

/-- ROR zero page,X (R233). -/
def execRorZpx (z : Byte) (s : State) : Result := rmwOp ror (.zpx z) 6 s

/-- ROR absolute (R233). -/
def execRorAbs (a : Word) (s : State) : Result := rmwOp ror (.abs a) 6 s

/-- ROR absolute,X (R233). -/
def execRorAbx (a : Word) (s : State) : Result := rmwOp ror (.abx a) 7 s

end Sys2Proof.Machine
end

