-- ==== Sys2Proof/Machine/Stack.lean ====
section
/-! DEFINITION. Stack instructions (42_stack.md): one meaning per
opcode-table row. -/

namespace Sys2Proof.Machine

/-- PHA: push A (R190). -/
def execPha (s : State) : Result := .next (finish 1 3 (push s s.cpu.a))

/-- PHP: push P with bits 5 and 4 set (R191). -/
def execPhp (s : State) : Result := .next (finish 1 3 (push s (s.cpu.p.pushed true)))

/-- PLA: pull A (R192). -/
def execPla (s : State) : Result :=
  let r := pull s
  .next (finish 1 4 (r.2.setCpu (r.2.cpu.loadA r.1)))

/-- PLP: pull P (R193). -/
def execPlp (s : State) : Result :=
  let r := pull s
  .next (finish 1 4 (r.2.setCpu (r.2.cpu.setP (Flags.ofByte r.1))))

end Sys2Proof.Machine
end

