-- ==== Sys2Proof/Machine/System.lean ====
section
/-! DEFINITION. BRK, RTI, NOP, and the opcodes the parameter UNOFFICIAL_NOPS admits (49_system.md): one meaning per
opcode-table row. -/

namespace Sys2Proof.Machine

/-- BRK: software interrupt (R270). -/
def execBrk (s : State) : Result :=
  .next ((takeInterrupt Config.irqVector (s.cpu.pc + 2#16) true s).setCyc 7)

/-- RTI: return from interrupt (R271). -/
def execRti (s : State) : Result := .next ((returnFromInterrupt s).setCyc 6)

/-- NOP: no operation (R272). -/
def execNop (s : State) : Result := .next (registerOp 2 (fun c => c) s)

/-! ### Opcodes admitted by UNOFFICIAL_NOPS (30_encoding.md R145) -/

/-- The operand bytes a mode has (30_encoding.md R130). -/
def nopOperandBytes : AddrMode → Nat
  | .imp | .acc => 0
  | .imm | .zp | .zpx | .zpy | .rel | .izx | .izy => 1
  | .abs | .abx | .aby | .ind => 2

/-- `crossed` of an admitted opcode and the state after the pointer reads of its mode (log 11).  No
data read is made.  DESIGN CHOICE (log 11): the modes IMP, ACC, IMM and IND, to which the rules give no
`crossed` (R133, R134, R138), cross no page. -/
def nopCrossed (mode : AddrMode) (op1 op2 : Byte) (s : State) : Bool × State :=
  let located (m : MemMode) : Bool × State := ((m.locate s).crossed, (m.locate s).after)
  match mode with
  | .imp | .acc | .imm => (false, s)
  | .zp => located (.zp op1)
  | .zpx => located (.zpx op1)
  | .zpy => located (.zpy op1)
  | .rel => ((branchTarget s.cpu.pc op1).2, s)
  | .abs => located (.abs (wordOf op2 op1))
  | .abx => located (.abx (wordOf op2 op1))
  | .aby => located (.aby (wordOf op2 op1))
  | .ind => (false, (readIndirect s (wordOf op2 op1)).2)
  | .izx => located (.izx op1)
  | .izy => located (.izy op1)

/-- An admitted opcode: no register, flag or data access; `PC` and the cycle count alone
(30_encoding.md R145). -/
def execUnofficialNop (form : NopForm) (op1 op2 : Byte) (s : State) : Result :=
  let r := nopCrossed form.mode op1 op2 s
  .next (finish (1 + nopOperandBytes form.mode) (form.cycles + bitNat (form.pageFlag && r.1)) r.2)

end Sys2Proof.Machine
end

