-- ==== Sys2Proof/Machine/Transfer.lean ====
section
/-! DEFINITION. Register transfers (41_transfer.md): one meaning per
opcode-table row. -/

namespace Sys2Proof.Machine

/-- TAX (R180). -/
def execTax (s : State) : Result := .next (registerOp 2 (fun c => c.loadX c.a) s)

/-- TAY (R181). -/
def execTay (s : State) : Result := .next (registerOp 2 (fun c => c.loadY c.a) s)

/-- TXA (R182). -/
def execTxa (s : State) : Result := .next (registerOp 2 (fun c => c.loadA c.x) s)

/-- TYA (R183). -/
def execTya (s : State) : Result := .next (registerOp 2 (fun c => c.loadA c.y) s)

/-- TSX (R184). -/
def execTsx (s : State) : Result := .next (registerOp 2 (fun c => c.loadX c.sp) s)

/-- TXS (R185). -/
def execTxs (s : State) : Result := .next (registerOp 2 (fun c => c.setSp c.x) s)

end Sys2Proof.Machine
end

