-- ==== Sys2Proof/Machine/Fetch.lean ====
section
/-! DEFINITION. Fetching and running the instruction at PC (60_exceptions.md R300, R301), and placing
an instruction where the next step fetches it. -/

namespace Sys2Proof.Machine

/-! ### Fetch -/

/-- The bytes an opcode's fetch takes; an undefined opcode's fetch takes one (30_encoding.md R130,
R131). -/
def fetchLength (op : Byte) : Nat :=
  match formOf op with
  | some form => form.length
  | none => 1

/-- `n` bytes read from `a` on, in ascending order; addresses wrap (30_encoding.md R130, R132). -/
def fetchBytes : Nat → Word → State → List Byte × State
  | 0, _, s => ([], s)
  | n + 1, a, s =>
    let r := busRead s a
    let rest := fetchBytes n (a + 1#16) r.2
    (r.1 :: rest.1, rest.2)

/-- What a fetch gives: the opcode byte, the decoded instruction, the state after the reads. -/
structure FetchedInstr where
  opcode : Byte
  instr : Option Instr
  after : State

/-- The fetch of the instruction at PC: the opcode, then its operand bytes, by ordinary bus reads
(20_memory.md R114, 30_encoding.md R132; log 23). -/
def fetchInstr (s : State) : FetchedInstr :=
  let r := busRead s s.cpu.pc
  let ops := fetchBytes (fetchLength r.1 - 1) (s.cpu.pc + 1#16) r.2
  { opcode := r.1, instr := (decode (r.1 :: ops.1)).map (·.1), after := ops.2 }

/-- An opcode outside the table: run as `UNOFFICIAL_NOPS` says (30_encoding.md R145), else
`DecodeError` (60_exceptions.md R301). -/
def undefinedOpcode (op : Byte) (s : State) : Result :=
  match s.params.unofficialNops.lookup op with
  | some form =>
    let ops := fetchBytes (nopOperandBytes form.mode) (s.cpu.pc + 1#16) s
    execUnofficialNop form (ops.1.getD 0 0#8) (ops.1.getD 1 0#8) ops.2
  | none => .fault (.decodeError op s.cpu.pc s)

/-- Fetch and run the instruction at PC (60_exceptions.md R300). -/
def cpuInstruction (s : State) : Result :=
  let f := fetchInstr s
  match f.instr with
  | some i => exec i f.after
  | none => undefinedOpcode f.opcode f.after

/-! ### Placing an instruction (log 14) -/

/-- A byte stored at `a` is what a fetch from `a` reads: RAM, answering PRG RAM, or PRG ROM. -/
def placeable (s : State) (a : Word) : Bool :=
  decide (a.toNat < 0x2000) || (decide (0x6000 ≤ a.toNat) && decide (a.toNat < 0x8000) && prgRamReadable s) ||
    decide (0x8000 ≤ a.toNat)

/-- Put a byte where a fetch from the placeable address `a` reads it. -/
def placeByte (s : State) (a : Word) (b : Byte) : State :=
  if a.toNat < 0x2000 then s.setRam (Cells.write s.ram (a.toNat % 0x0800) b)
  else if a.toNat < 0x8000 then
    s.setBoard { s.board with prgRam := Cells.write s.board.prgRam (a.toNat - 0x6000) b }
  else
    { s with cart := { s.cart with prgRom := Cells.write s.cart.prgRom (prgOffset s.mapper s.cart a) b } }

/-- Put bytes at consecutive addresses. -/
def placeBytes (s : State) (a : Word) : List Byte → State
  | [] => s
  | b :: bs => placeBytes (placeByte s a b) (a + 1#16) bs

/-- No interrupt is serviced by the next poll: the NMI latch is cleared, and the three IRQ flags where
they would be serviced. -/
def quietInterrupts (s : State) : State :=
  let s := s.setNmiPending false
  if s.irqLine && !s.cpu.p.i then
    let m := match s.mapper with
      | .mmc3 m => .mmc3 { m with irqFlag := false }
      | other => other
    let apu := { s.apu with frame := { s.apu.frame with frameIrq := false },
                            dmc := { s.apu.dmc with irqFlag := false } }
    (s.setMapper m).setApu apu
  else s

/-- `s` with the instruction of the table number `w` stored where the next step fetches it: at PC
where PC addresses memory, else at 0x0000 with PC set to it. -/
def placeFetchWord (s : State) (nbits w : Nat) : State :=
  let s := quietInterrupts s
  let pc := s.cpu.pc
  let s :=
    if placeable s pc && placeable s (pc + 1#16) && placeable s (pc + 2#16) then s
    else s.setCpu (s.cpu.setPc 0#16)
  placeBytes s s.cpu.pc (bytesOfNumber nbits w)

end Sys2Proof.Machine
end

