-- ==== Sys2Proof/Machine/PpuDot.lean ====
section
/-! DEFINITION. One PPU dot, `ppu.step()` (62_ppu.md R440): flag events, pixel output, background
pipeline, `v` updates, sprite pipeline, advance of the position, in that order. -/

namespace Sys2Proof.Machine

/-- A visible scanline, 0..239. -/
def Ppu.visible (p : Ppu) : Bool := decide (0 ≤ p.scanline) && decide (p.scanline ≤ 239)

/-- Rendering, on scanlines -1..239. -/
def Ppu.renderLine (p : Ppu) : Bool :=
  p.rendering && decide (-1 ≤ p.scanline) && decide (p.scanline ≤ 239)

/-! ### 1. Flag events -/

/-- Vertical blank begins at (241, 1), and the NMI edge (R441). -/
def vblankStart (s : State) : State :=
  let rising := !s.ppu.nmiLine && bit s.ppu.ctrl 7
  let s := s.setPpu { s.ppu with nmiOccurred := true }
  if rising then s.setNmiPending true else s

/-- The flag events of a dot (R441, R442). -/
def flagEvents (s : State) : State :=
  if s.ppu.dot ≠ 1 then s
  else if s.ppu.scanline = 241 then vblankStart s
  else if s.ppu.scanline = -1 then
    s.setPpu { s.ppu with nmiOccurred := false, spriteZeroHit := false, spriteOverflow := false }
  else s

/-! ### 2. Pixel output -/

/-- A background pixel: pattern 0..3 (0 transparent) and palette 0..3. -/
structure BgPixel where
  pat : BitVec 2
  pal : BitVec 2
  deriving DecidableEq, Repr

/-- A sprite pixel: pattern (0 transparent), palette, behind the background, of sprite 0. -/
structure SpritePixel where
  pat : BitVec 2
  pal : BitVec 2
  behind : Bool
  isZero : Bool
  deriving DecidableEq, Repr

/-- Two bits as a 2-bit number, the first the high one. -/
def pair (hi lo : Bool) : BitVec 2 := BitVec.ofBool hi ++ BitVec.ofBool lo

/-- The background pixel of the current dot (R453). -/
def backgroundPixel (p : Ppu) : BgPixel :=
  let k := p.x.toNat
  let shown := bit p.mask 3 && !(decide (p.dot ≤ 8) && !bit p.mask 1)
  { pat := if shown then pair (bit p.bgShiftHi (15 - k)) (bit p.bgShiftLo (15 - k)) else 0#2
    pal := pair (bit p.atShiftHi (7 - k)) (bit p.atShiftLo (7 - k)) }

/-- The pattern value a sprite slot gives at column `px`; 0 outside its eight columns (R473). -/
def slotPattern (slot : SpriteSlot) (px : Nat) : BitVec 2 :=
  if slot.x.toNat ≤ px ∧ px - slot.x.toNat ≤ 7 then
    let off := px - slot.x.toNat
    let k := if bit slot.attr 6 then off else 7 - off
    pair (bit slot.patHi k) (bit slot.patLo k)
  else 0#2

/-- The first slot of a list with a non-transparent pixel at column `px`; `i` is the number of the
list's first slot (R473). -/
def firstSprite (zeroLine : Bool) (px : Nat) : Nat → List SpriteSlot → SpritePixel
  | _, [] => ⟨0#2, 0#2, false, false⟩
  | i, slot :: rest =>
    let pat := slotPattern slot px
    if pat ≠ 0#2 then ⟨pat, field slot.attr 0 2, bit slot.attr 5, i == 0 && zeroLine⟩
    else firstSprite zeroLine px (i + 1) rest

/-- The sprite pixel of the current dot (R473). -/
def spritePixel (p : Ppu) : SpritePixel :=
  if bit p.mask 4 && (decide (8 < p.dot) || bit p.mask 2) then
    firstSprite p.spriteZeroLine (p.dot - 1) 0 p.sprites.toList
  else ⟨0#2, 0#2, false, false⟩

/-- The palette index of the pixel (R455). -/
def pixelIndex (bg : BgPixel) (sp : SpritePixel) : BitVec 5 :=
  if bg.pat = 0#2 ∧ sp.pat = 0#2 then 0#5
  else if bg.pat = 0#2 then 1#1 ++ sp.pal ++ sp.pat
  else if sp.pat = 0#2 ∨ sp.behind = true then 0#1 ++ bg.pal ++ bg.pat
  else 1#1 ++ sp.pal ++ sp.pat

/-- Sprite-0 hit at the current dot (R458). -/
def spriteZeroHits (p : Ppu) (bg : BgPixel) (sp : SpritePixel) : Bool :=
  sp.isZero && decide (sp.pat ≠ 0#2) && decide (bg.pat ≠ 0#2) && decide (2 ≤ p.dot) && decide (p.dot ≤ 255)

/-- Pixel output and the sprite-0 hit of a dot (R455 to R458, R460). -/
def pixelOutput (p : Ppu) : Ppu :=
  if p.visible && decide (1 ≤ p.dot) && decide (p.dot ≤ 256) then
    let bg := backgroundPixel p
    let sp := spritePixel p
    let colour := paletteRead p (0x3F00#14 ||| (pixelIndex bg sp).setWidth 14)
    { p with
      frameBuffer :=
        Cells.write p.frameBuffer (p.scanline.toNat * 256 + (p.dot - 1)) (field p.mask 5 3 ++ colour)
      spriteZeroHit := p.spriteZeroHit || spriteZeroHits p bg sp }
  else p

/-! ### 3. Background pipeline -/

/-- The dots at which the background pipeline runs (R450). -/
def bgDot (d : Nat) : Bool := (decide (1 ≤ d) && decide (d ≤ 256)) || (decide (321 ≤ d) && decide (d ≤ 336))

/-- The shift of every such dot (R450). -/
def shiftBackground (p : Ppu) : Ppu :=
  { p with
    bgShiftLo := p.bgShiftLo <<< 1
    bgShiftHi := p.bgShiftHi <<< 1
    atShiftLo := (p.atShiftLo <<< 1) ||| bitAt 8 (bit p.atLatch 0) 0
    atShiftHi := (p.atShiftHi <<< 1) ||| bitAt 8 (bit p.atLatch 1) 0 }

/-- Nametable fetch address (R450). -/
def ntAddr (p : Ppu) : VAddr := 0x2000#14 ||| (p.v &&& 0x0FFF#15).setWidth 14

/-- Attribute fetch address (R450). -/
def atAddr (p : Ppu) : VAddr :=
  0x23C0#14 ||| ((p.v &&& 0x0C00#15) ||| ((p.v >>> 4) &&& 0x38#15) ||| ((p.v >>> 2) &&& 0x07#15)).setWidth 14

/-- The attribute bits of the current tile's quadrant (R450). -/
def atQuadrant (p : Ppu) (b : Byte) : BitVec 2 :=
  field (b >>> (((p.v >>> 4) &&& 4#15) ||| (p.v &&& 2#15)).toNat) 0 2

/-- Low pattern fetch address (R450). -/
def bgPatternAddr (p : Ppu) : VAddr :=
  bitAt 14 (bit p.ctrl 4) 12 ||| (p.ntLatch.setWidth 14 <<< 4) ||| (field p.v 12 3).setWidth 14

/-- Coarse X increment (R451). -/
def incCoarseX (v : BitVec 15) : BitVec 15 :=
  if field v 0 5 = 31#5 then putField v 0 0#5 ^^^ 0x0400#15 else putField v 0 (field v 0 5 + 1#5)

/-- Y increment (R452). -/
def incY (v : BitVec 15) : BitVec 15 :=
  if field v 12 3 ≠ 7#3 then putField v 12 (field v 12 3 + 1#3)
  else
    let v := putField v 12 0#3
    if field v 5 5 = 29#5 then putField v 5 0#5 ^^^ 0x0800#15
    else if field v 5 5 = 31#5 then putField v 5 0#5
    else putField v 5 (field v 5 5 + 1#5)

/-- Reload of the shifters and the increments of `v` at every eighth dot (R450). -/
def reloadBackground (p : Ppu) : Ppu :=
  { p with
    bgShiftLo := putField p.bgShiftLo 0 p.patLoLatch
    bgShiftHi := putField p.bgShiftHi 0 p.patHiLatch
    atLatch := p.atFetch
    v := if p.dot = 256 then incY (incCoarseX p.v) else incCoarseX p.v }

/-- The fetch or reload of a background dot (R450). -/
def fetchBackground (s : State) : State :=
  match s.ppu.dot % 8 with
  | 1 =>
    let (b, s') := ppuRead s (ntAddr s.ppu)
    s'.setPpu { s'.ppu with ntLatch := b }
  | 3 =>
    let (b, s') := ppuRead s (atAddr s.ppu)
    s'.setPpu { s'.ppu with atFetch := atQuadrant s'.ppu b }
  | 5 =>
    let (b, s') := ppuRead s (bgPatternAddr s.ppu)
    s'.setPpu { s'.ppu with patLoLatch := b }
  | 7 =>
    let (b, s') := ppuRead s (bgPatternAddr s.ppu ||| 8#14)
    s'.setPpu { s'.ppu with patHiLatch := b }
  | 0 => s.setPpu (reloadBackground s.ppu)
  | _ => s

/-- The background pipeline of a dot (R450). -/
def background (s : State) : State :=
  if s.ppu.renderLine && bgDot s.ppu.dot then fetchBackground (s.setPpu (shiftBackground s.ppu)) else s

/-! ### 4. Updates of `v` -/

/-- The horizontal and vertical copies of `t` to `v` (R443, R444). -/
def copyScroll (p : Ppu) : Ppu :=
  if p.renderLine && decide (p.dot = 257) then { p with v := (p.v &&& 0x7BE0#15) ||| (p.t &&& 0x041F#15) }
  else if p.renderLine && decide (p.scanline = -1) && decide (280 ≤ p.dot) && decide (p.dot ≤ 304) then
    { p with v := (p.v &&& 0x041F#15) ||| (p.t &&& 0x7BE0#15) }
  else p

/-! ### 5. Sprite pipeline -/

/-- Sprite height is 16 (PPUCTRL bit 5). -/
def Ppu.tall (p : Ppu) : Bool := bit p.ctrl 5

/-- Sprite height `h`. -/
def spriteHeight (tall : Bool) : Nat := if tall then 16 else 8

/-- Clear of secondary OAM at dot 1 (R470). -/
def clearSecondary (p : Ppu) : Ppu :=
  let p := { p with secondaryOam := Cells.ofList (List.replicate 32 0xFF#8) }
  if p.scanline = -1 then { p with spriteCount := 0, spriteZeroNext := false } else p

/-- A sprite with top Byte `y` is in range of the scanline, in integers (R471). -/
def inRange (scanline : Int) (y : Byte) (h : Nat) : Bool :=
  decide (0 ≤ scanline - y.toNat) && decide (scanline - y.toNat < h)

/-- What the selection loop of R471 holds: next sprite, sprites found, secondary OAM, sprite 0 found. -/
structure Selection where
  n : Nat
  count : Nat
  secondary : Memory
  zero : Bool
  deriving DecidableEq, Repr

/-- Copy of sprite `n` of OAM to entry `count` of secondary OAM (R471). -/
def copySprite (oam : Memory) (n count : Nat) (secondary : Memory) : Memory :=
  let put (m : Memory) (k : Nat) := Cells.write m (4 * count + k) (Cells.read oam (4 * n + k))
  put (put (put (put secondary 0) 1) 2) 3

/-- The selection loop of R471, at most `fuel` sprites. -/
def selectSprites (oam : Memory) (scanline : Int) (h : Nat) : Nat → Selection → Selection
  | 0, e => e
  | fuel + 1, e =>
    if e.n < 64 ∧ e.count < 8 then
      let e' :=
        if inRange scanline (Cells.read oam (4 * e.n)) h then
          { n := e.n + 1, count := e.count + 1, secondary := copySprite oam e.n e.count e.secondary,
            zero := e.zero || e.n == 0 }
        else { e with n := e.n + 1 }
      selectSprites oam scanline h fuel e'
    else e

/-- The overflow loop of R471, with its diagonal stride, from sprite `n` and byte `m`. -/
def findsOverflow (oam : Memory) (scanline : Int) (h : Nat) : Nat → Nat → Nat → Bool
  | 0, _, _ => false
  | fuel + 1, n, m =>
    if n < 64 then
      inRange scanline (Cells.read oam (4 * n + m)) h ||
        findsOverflow oam scanline h fuel (n + 1) ((m + 1) % 4)
    else false

/-- Sprite evaluation, one action at dot 256 (R471). -/
def evaluateSprites (p : Ppu) : Ppu :=
  let h := spriteHeight p.tall
  let e := selectSprites p.oam p.scanline h 64 ⟨0, 0, p.secondaryOam, false⟩
  { p with
    secondaryOam := e.secondary
    spriteZeroNext := e.zero
    spriteCount := e.count
    spriteOverflow := p.spriteOverflow || findsOverflow p.oam p.scanline h 64 e.n 0 }

/-- The row of a sprite tile fetched on this scanline, an integer (R472).  It lies outside `0..h-1` when
PPUCTRL or the rendering bits changed after the evaluation; R472 computes it all the same. -/
def spriteRow (tall : Bool) (scanline : Int) (y attr : Byte) : Int :=
  let row := scanline - y.toNat
  if bit attr 7 then spriteHeight tall - 1 - row else row

/-- Low pattern address of the sprite in slot `i` (R472).  A row below 0 or above 15 enters the address
in two's complement at its 14 bits (log 7). -/
def spritePatternAddr (p : Ppu) (i : Nat) : VAddr :=
  if i < p.spriteCount then
    let y := Cells.read p.secondaryOam (4 * i)
    let tile := Cells.read p.secondaryOam (4 * i + 1)
    let attr := Cells.read p.secondaryOam (4 * i + 2)
    let row := spriteRow p.tall p.scanline y attr
    if p.tall then
      bitAt 14 (bit tile 0) 12 |||
        (((tile &&& 0xFE#8).setWidth 14 + bitAt 14 (decide (8 ≤ row)) 0) <<< 4) |||
          (BitVec.ofInt 14 row &&& 7#14)
    else bitAt 14 (bit p.ctrl 3) 12 ||| (tile.setWidth 14 <<< 4) ||| BitVec.ofInt 14 row
  else if p.tall then 0x1FF0#14
  else bitAt 14 (bit p.ctrl 3) 12 ||| 0x0FF0#14

/-- A sprite slot after its low fetch returned `b` (R472). -/
def slotAfterLow (p : Ppu) (i : Nat) (slot : SpriteSlot) (b : Byte) : SpriteSlot :=
  if i < p.spriteCount then
    { slot with patLo := b, attr := Cells.read p.secondaryOam (4 * i + 2),
                x := Cells.read p.secondaryOam (4 * i + 3) }
  else { slot with patLo := 0#8, attr := 0#8, x := 0#8 }

/-- A sprite slot after its high fetch returned `b` (R472). -/
def slotAfterHigh (p : Ppu) (i : Nat) (slot : SpriteSlot) (b : Byte) : SpriteSlot :=
  if i < p.spriteCount then { slot with patHi := b } else { slot with patHi := 0#8 }

/-- The low fetch of slot `i` (R472). -/
def fetchSpriteLow (s : State) (i : Fin 8) : State :=
  let (b, s') := ppuRead s (spritePatternAddr s.ppu i)
  s'.setPpu { s'.ppu with sprites := s'.ppu.sprites.set i (slotAfterLow s'.ppu i s'.ppu.sprites[i] b) }

/-- The high fetch of slot `i` (R472). -/
def fetchSpriteHigh (s : State) (i : Fin 8) : State :=
  let (b, s') := ppuRead s (spritePatternAddr s.ppu i ||| 8#14)
  s'.setPpu { s'.ppu with sprites := s'.ppu.sprites.set i (slotAfterHigh s'.ppu i s'.ppu.sprites[i] b) }

/-- The sprite pipeline of a dot (R470 to R472). -/
def spritePipeline (s : State) : State :=
  let d := s.ppu.dot
  if !s.ppu.renderLine then s
  else if d = 1 then s.setPpu (clearSecondary s.ppu)
  else if d = 256 ∧ s.ppu.scanline ≠ -1 then s.setPpu (evaluateSprites s.ppu)
  else if d = 257 then s.setPpu { s.ppu with spriteZeroLine := s.ppu.spriteZeroNext }
  else if h : 261 ≤ d ∧ d ≤ 319 then
    if d % 8 = 5 then fetchSpriteLow s ⟨(d - 261) / 8, by omega⟩
    else if d % 8 = 7 then fetchSpriteHigh s ⟨(d - 261) / 8, by omega⟩
    else s
  else s

/-! ### 6. Advance of the position -/

/-- The next position, with the odd-frame skip of dot 339 (R445, R446). -/
def advancePosition (p : Ppu) : Ppu :=
  let dot :=
    if p.scanline = -1 ∧ p.dot = 338 ∧ p.oddFrame = true ∧ p.rendering = true then 340 else p.dot + 1
  if dot ≤ 340 then { p with dot := dot }
  else if p.scanline + 1 ≤ 260 then { p with dot := 0, scanline := p.scanline + 1 }
  else { p with dot := 0, scanline := -1, frame := p.frame + 1, oddFrame := !p.oddFrame }

/-- `ppu.step()`: one dot (R440). -/
def ppuStep (s : State) : State :=
  let s := flagEvents s
  let s := background (s.setPpu (pixelOutput s.ppu))
  let s := spritePipeline (s.setPpu (copyScroll s.ppu))
  s.setPpu (advancePosition s.ppu)

/-- `n` dots. -/
def ppuRun : Nat → State → State
  | 0, s => s
  | n + 1, s => ppuRun n (ppuStep s)

end Sys2Proof.Machine
end

