-- ==== Sys2Proof/Machine/Tick.lean ====
section
/-! DEFINITION. One Bus `tick` (61_bus_dma_controllers.md R350): the CPU step (60_exceptions.md R300),
then the PPU's dots, then the APU's steps (63_apu.md R500). -/

namespace Sys2Proof.Machine

/-! ### The CPU step -/

/-- An NMI or IRQ service: the interrupt sequence, `INT_CYCLES` cycles (60_exceptions.md R312, R317). -/
def serviceInterrupt (vector : Word) (s : State) : State :=
  (takeInterrupt vector s.cpu.pc false s).setCyc Config.intCycles

/-- The end of a CPU step: the stalls join the count, the count joins `cycles` (60_exceptions.md
R300). -/
def settle (s : State) : State :=
  let cyc := s.cyc + s.pendingStall
  ((s.setCpu { s.cpu with cycles := s.cpu.cycles + cyc }).setPendingStall 0).setCyc cyc

/-- What the poll selects: NMI, else an unmasked IRQ, else the instruction at PC (60_exceptions.md
R300, R310). -/
def pollAndRun (s : State) : Result :=
  if s.cpu.nmiPending then .next (serviceInterrupt Config.nmiVector (s.setNmiPending false))
  else if s.irqLine && !s.cpu.p.i then .next (serviceInterrupt Config.irqVector s)
  else cpuInstruction s

/-- `cpu.step()` (60_exceptions.md R300). -/
def cpuStep (s : State) : Result := andThen (pollAndRun s) fun t => .next (settle t)

/-! ### The APU step -/

/-- The DMC memory reader: a bus read, whose stall the next CPU step pays (63_apu.md R545,
61_bus_dma_controllers.md R366). -/
def dmcReader (s : State) : State :=
  if s.apu.dmc.wantsByte then
    let r := busRead s s.apu.dmc.curAddr
    (r.2.setApu { r.2.apu with dmc := r.2.apu.dmc.fetched r.1 }).setPendingStall
      (r.2.pendingStall + r.2.params.dmcStall)
  else s

/-- `apu.step()`: one CPU cycle of APU time (63_apu.md R500). -/
def apuStep (s : State) : State :=
  let s := dmcReader s
  s.setApu s.apu.clockFrame.clockTimers.resample

/-- `n` APU steps. -/
def apuRun : Nat → State → State
  | 0, s => s
  | n + 1, s => apuRun n (apuStep s)

/-! ### The tick -/

/-- The devices run for `cyc` cycles: `3 * cyc` dots, then `cyc` APU steps
(61_bus_dma_controllers.md R350, R351). -/
def advance (cyc : Nat) (s : State) : State := apuRun cyc (ppuRun (3 * cyc) s)

/-- `tick()` (61_bus_dma_controllers.md R350). -/
def tick (s : State) : Result := andThen (cpuStep s) fun t => .next (advance t.cyc t)

end Sys2Proof.Machine
end

