-- ==== Sys2Proof/Machine/Step.lean ====
section
/-! DEFINITION. The step of the machine: one Bus `tick` (61_bus_dma_controllers.md R350). -/

namespace Sys2Proof.Machine

/-- One step: one `tick`. -/
def step (s : State) : Host.Outcome State Fault Refusal := tick s

/-- `s` with the instruction of the table number `w` stored where `step` fetches next (log 2,
log 14). -/
def State.withFetchWord (s : State) (nbits w : Nat) : State := placeFetchWord s nbits w

end Sys2Proof.Machine
end

