-- ==== Sys2Proof/WellFormed.lean ====
section
/-! DEFINITION. Which instructions, cartridges and parameters are well formed. -/

namespace Sys2Proof

/-- Every instruction term is well formed: each operand's type has exactly the width of its operand
bytes, and 30_encoding.md R130 to R132 admit every value of them. -/
def Instr.wf (_ : Instr) : Bool := true

/-- A mirroring a header can name (00_scope.md R9: Horizontal, Vertical or FourScreen). -/
def Mirroring.ofHeader : Mirroring → Bool
  | .horizontal | .vertical | .fourScreen => true
  | .singleA | .singleB => false

/-- The constraints of 00_scope.md R9 on a cartridge, and that its ROM arrays are canonical. -/
abbrev Cartridge.wf (c : Cartridge) : Prop :=
  0 < c.prgLen ∧ c.prgLen % 16384 = 0 ∧ c.chrLen % 8192 = 0 ∧ c.mirroring.ofHeader = true ∧
    (c.prgRamSize = 0 ∨ c.prgRamSize = 8192) ∧ Cells.wf c.prgLen c.prgRom ∧ Cells.wf c.chrLen c.chrRom

/-- The constraints on the open parameters: `DMC_STALL` in 1..4 (00_scope.md R9), `UNOFFICIAL_NOPS`
a map on undefined opcodes only (30_encoding.md R145). -/
abbrev Params.wf (p : Params) : Prop :=
  1 ≤ p.dmcStall ∧ p.dmcStall ≤ 4 ∧ (p.unofficialNops.map (·.1)).Nodup ∧
    ∀ e ∈ p.unofficialNops, (formOf e.1).isNone = true

end Sys2Proof
end

