-- ==== Sys2Proof/Machine/HostOps.lean ====
section
/-! DEFINITION. What the host does between steps (61_bus_dma_controllers.md R380): power-on and runtime
reset (70_reset_and_hazards.md), controller input, reading the picture, draining the samples, and the
cartridge of an iNES file (64_mappers.md R603).  These are functions beside `step` (log 16). -/

namespace Sys2Proof.Machine

/-! ### Reset -/

/-- `cpu_reset()` (70_reset_and_hazards.md R701). -/
def cpuReset (s : State) : State :=
  let t := s.setCpu ((s.cpu.setSp 0xFD#8).setP { s.cpu.p with i := true })
  let r := read16 t Config.resetVector
  let c := r.2.cpu.setPc r.1
  (r.2.setCpu { c with nmiPending := false, cycles := c.cycles + Config.resetCycles }).setPendingStall 0

/-- `power_on(cart, parameters)` (70_reset_and_hazards.md R700 to R702): none for a cartridge or
parameters outside 00_scope.md R9, which never reach it (log 19). -/
def powerOn (cart : Cartridge) (params : Params) (o : PowerOnValues) : Option State :=
  if cart.wf ∧ params.wf then some (cpuReset (State.built cart params o)) else none

/-- The PPU's runtime-reset column (10_state.md R38). -/
def Ppu.runtimeReset (p : Ppu) : Ppu :=
  { Ppu.powerOn p.vram p.oam p.palette with
    v := p.v
    nmiOccurred := p.nmiOccurred
    spriteZeroHit := p.spriteZeroHit
    spriteOverflow := p.spriteOverflow
    oamAddr := p.oamAddr
    secondaryOam := p.secondaryOam
    frame := p.frame
    frameBuffer := p.frameBuffer }

/-- The APU's runtime-reset column (10_state.md R39). -/
def Apu.runtimeReset (a : Apu) : Apu :=
  { a with
    pulse1 := { a.pulse1 with enabled := false, length := 0#8 }
    pulse2 := { a.pulse2 with enabled := false, length := 0#8 }
    triangle := { a.triangle with enabled := false, length := 0#8 }
    noise := { a.noise with enabled := false, length := 0#8 }
    dmc := { a.dmc with bytesRemaining := 0#12, irqFlag := false }
    frame := { a.frame with frameIrq := false, fcCycle := 0 }
    cycleParity := false }

/-- `reset()` (70_reset_and_hazards.md R703): the PPU, the APU, then `cpu_reset()`.  `pending_stall` is
preserved, as the ruling R703 cites says (92_eei_decisions.md D38); R701 and 10_state.md R35 read alone would
make it 0 (log 10). -/
def runtimeReset (s : State) : State :=
  (cpuReset ((s.setPpu s.ppu.runtimeReset).setApu s.apu.runtimeReset)).setPendingStall s.pendingStall

/-! ### Input and output -/

/-- The host replaces the controller snapshots (61_bus_dma_controllers.md R374). -/
def setSnapshots (s : State) (one two : Byte) : State :=
  s.setPads { s.pads with snapshot1 := one, snapshot2 := two }

/-- The host removes samples from the front of the queue (63_apu.md R572). -/
def drainSamples (s : State) (n : Nat) : List Rat × State :=
  (s.apu.samples.take n, s.setApu { s.apu with samples := s.apu.samples.drop n })

/-- A pixel of the frame buffer: its emphasis bits and the RGBA word of its colour (62_ppu.md R459,
R460). -/
def framePixel (s : State) (x y : Nat) : BitVec 3 × BitVec 32 :=
  let e := Cells.read s.ppu.frameBuffer (y * 256 + x)
  (e.extractLsb' 6 3, Config.masterPalette (e.extractLsb' 0 6))

/-! ### The iNES file (transcription, log 22) -/

/-- The mapper a number names (00_scope.md R9). -/
def mapperOfNumber : Nat → Option MapperKind
  | 0 => some .nrom
  | 1 => some .mmc1
  | 2 => some .uxrom
  | 3 => some .cnrom
  | 4 => some .mmc3
  | 7 => some .aorom
  | _ => none

/-- The mirroring header byte 6 names (64_mappers.md R603). -/
def mirroringOfHeader (flags6 : Byte) : Mirroring :=
  if flags6.getLsbD 3 then .fourScreen else if flags6.getLsbD 0 then .vertical else .horizontal

/-- The PRG RAM the loader supplies (64_mappers.md R604). -/
def prgRamOfHeader (kind : MapperKind) (battery : Bool) : Nat :=
  if kind = .mmc1 ∨ kind = .mmc3 ∨ battery = true then 8192 else 0

/-- The cartridge of an iNES file (64_mappers.md R603, R604); none is `BadRom` (60_exceptions.md
R303). -/
def cartridgeOfFile (file : List Byte) : Option Cartridge :=
  match file with
  | 0x4E#8 :: 0x45#8 :: 0x53#8 :: 0x1A#8 :: prg :: chr :: f6 :: f7 :: rest =>
    let prgLen := 16384 * prg.toNat
    let chrLen := 8192 * chr.toNat
    let payload := rest.drop (8 + if f6.getLsbD 2 then 512 else 0)
    match mapperOfNumber ((f7 &&& 0xF0#8) ||| (f6 >>> 4)).toNat with
    | some kind =>
      if rest.length < 8 ∨ prg = 0#8 ∨ payload.length < prgLen + chrLen then none
      else some
        { mapper := kind
          prgRom := Cells.ofList (payload.take prgLen)
          prgLen := prgLen
          chrRom := Cells.ofList ((payload.drop prgLen).take chrLen)
          chrLen := chrLen
          mirroring := mirroringOfHeader f6
          battery := f6.getLsbD 1
          prgRamSize := prgRamOfHeader kind (f6.getLsbD 1) }
    | none => none
  | _ => none

end Sys2Proof.Machine
end

