-- ==== Sys2Proof/Safety.lean ====
section
/-! DEFINITION. The terms the claims are stated in: what an instruction is by mnemonic and shape, what a
read or a write of the bus may change, and the invariant of the machine. -/

namespace Sys2Proof.Machine

/-! ### Instructions by mnemonic and by shape -/

/-- The 56 mnemonics (30_encoding.md R140). -/
inductive Mnemonic where
  | lda | ldx | ldy | sta | stx | sty | tax | tay | txa | tya | tsx | txs | pha | php
  | pla | plp | and | ora | eor | bit | adc | sbc | cmp | cpx | cpy | inc | dec | inx
  | iny | dex | dey | asl | lsr | rol | ror | jmp | jsr | rts | bcc | bcs | beq | bne
  | bmi | bpl | bvc | bvs | clc | sec | cli | sei | cld | sed | clv | brk | rti | nop
  deriving DecidableEq, Repr

/-- The mnemonic of an instruction (30_encoding.md R140). -/
def mnemonicOf : Instr → Mnemonic
  | .ldaImm _ | .ldaZp _ | .ldaZpx _ | .ldaAbs _ | .ldaAbx _ | .ldaAby _ | .ldaIzx _
    | .ldaIzy _ => .lda
  | .ldxImm _ | .ldxZp _ | .ldxZpy _ | .ldxAbs _ | .ldxAby _ => .ldx
  | .ldyImm _ | .ldyZp _ | .ldyZpx _ | .ldyAbs _ | .ldyAbx _ => .ldy
  | .staZp _ | .staZpx _ | .staAbs _ | .staAbx _ | .staAby _ | .staIzx _ | .staIzy _ => .sta
  | .stxZp _ | .stxZpy _ | .stxAbs _ => .stx
  | .styZp _ | .styZpx _ | .styAbs _ => .sty
  | .tax => .tax
  | .tay => .tay
  | .txa => .txa
  | .tya => .tya
  | .tsx => .tsx
  | .txs => .txs
  | .pha => .pha
  | .php => .php
  | .pla => .pla
  | .plp => .plp
  | .andImm _ | .andZp _ | .andZpx _ | .andAbs _ | .andAbx _ | .andAby _ | .andIzx _
    | .andIzy _ => .and
  | .oraImm _ | .oraZp _ | .oraZpx _ | .oraAbs _ | .oraAbx _ | .oraAby _ | .oraIzx _
    | .oraIzy _ => .ora
  | .eorImm _ | .eorZp _ | .eorZpx _ | .eorAbs _ | .eorAbx _ | .eorAby _ | .eorIzx _
    | .eorIzy _ => .eor
  | .bitZp _ | .bitAbs _ => .bit
  | .adcImm _ | .adcZp _ | .adcZpx _ | .adcAbs _ | .adcAbx _ | .adcAby _ | .adcIzx _
    | .adcIzy _ => .adc
  | .sbcImm _ | .sbcZp _ | .sbcZpx _ | .sbcAbs _ | .sbcAbx _ | .sbcAby _ | .sbcIzx _
    | .sbcIzy _ => .sbc
  | .cmpImm _ | .cmpZp _ | .cmpZpx _ | .cmpAbs _ | .cmpAbx _ | .cmpAby _ | .cmpIzx _
    | .cmpIzy _ => .cmp
  | .cpxImm _ | .cpxZp _ | .cpxAbs _ => .cpx
  | .cpyImm _ | .cpyZp _ | .cpyAbs _ => .cpy
  | .incZp _ | .incZpx _ | .incAbs _ | .incAbx _ => .inc
  | .decZp _ | .decZpx _ | .decAbs _ | .decAbx _ => .dec
  | .inx => .inx
  | .iny => .iny
  | .dex => .dex
  | .dey => .dey
  | .aslAcc | .aslZp _ | .aslZpx _ | .aslAbs _ | .aslAbx _ => .asl
  | .lsrAcc | .lsrZp _ | .lsrZpx _ | .lsrAbs _ | .lsrAbx _ => .lsr
  | .rolAcc | .rolZp _ | .rolZpx _ | .rolAbs _ | .rolAbx _ => .rol
  | .rorAcc | .rorZp _ | .rorZpx _ | .rorAbs _ | .rorAbx _ => .ror
  | .jmpAbs _ | .jmpInd _ => .jmp
  | .jsr _ => .jsr
  | .rts => .rts
  | .bcc _ => .bcc
  | .bcs _ => .bcs
  | .beq _ => .beq
  | .bne _ => .bne
  | .bmi _ => .bmi
  | .bpl _ => .bpl
  | .bvc _ => .bvc
  | .bvs _ => .bvs
  | .clc => .clc
  | .sec => .sec
  | .cli => .cli
  | .sei => .sei
  | .cld => .cld
  | .sed => .sed
  | .clv => .clv
  | .brk => .brk
  | .rti => .rti
  | .nop => .nop

/-- How an instruction uses memory. -/
inductive Shape where
  /-- Reads its operand, stores nothing. -/
  | reads (o : Operand)
  /-- Stores one byte at the mode's address, reads no data. -/
  | stores (m : MemMode)
  /-- Reads then stores one byte at the mode's address. -/
  | modifies (m : MemMode)
  /-- Reads and writes A alone. -/
  | accumulator
  /-- Registers and flags alone. -/
  | registers
  | pushes
  | pulls
  | jumps
  | branches
  deriving DecidableEq, Repr

/-- The shape of an instruction (40_load_store.md R176, 30_encoding.md R140). -/
def shapeOf : Instr → Shape
  | .ldaImm v => .reads (.imm v)
  | .ldaZp z => .reads (.mem (.zp z))
  | .ldaZpx z => .reads (.mem (.zpx z))
  | .ldaAbs a => .reads (.mem (.abs a))
  | .ldaAbx a => .reads (.mem (.abx a))
  | .ldaAby a => .reads (.mem (.aby a))
  | .ldaIzx z => .reads (.mem (.izx z))
  | .ldaIzy z => .reads (.mem (.izy z))
  | .ldxImm v => .reads (.imm v)
  | .ldxZp z => .reads (.mem (.zp z))
  | .ldxZpy z => .reads (.mem (.zpy z))
  | .ldxAbs a => .reads (.mem (.abs a))
  | .ldxAby a => .reads (.mem (.aby a))
  | .ldyImm v => .reads (.imm v)
  | .ldyZp z => .reads (.mem (.zp z))
  | .ldyZpx z => .reads (.mem (.zpx z))
  | .ldyAbs a => .reads (.mem (.abs a))
  | .ldyAbx a => .reads (.mem (.abx a))
  | .staZp z => .stores (.zp z)
  | .staZpx z => .stores (.zpx z)
  | .staAbs a => .stores (.abs a)
  | .staAbx a => .stores (.abx a)
  | .staAby a => .stores (.aby a)
  | .staIzx z => .stores (.izx z)
  | .staIzy z => .stores (.izy z)
  | .stxZp z => .stores (.zp z)
  | .stxZpy z => .stores (.zpy z)
  | .stxAbs a => .stores (.abs a)
  | .styZp z => .stores (.zp z)
  | .styZpx z => .stores (.zpx z)
  | .styAbs a => .stores (.abs a)
  | .tax => .registers
  | .tay => .registers
  | .txa => .registers
  | .tya => .registers
  | .tsx => .registers
  | .txs => .registers
  | .pha => .pushes
  | .php => .pushes
  | .pla => .pulls
  | .plp => .pulls
  | .andImm v => .reads (.imm v)
  | .andZp z => .reads (.mem (.zp z))
  | .andZpx z => .reads (.mem (.zpx z))
  | .andAbs a => .reads (.mem (.abs a))
  | .andAbx a => .reads (.mem (.abx a))
  | .andAby a => .reads (.mem (.aby a))
  | .andIzx z => .reads (.mem (.izx z))
  | .andIzy z => .reads (.mem (.izy z))
  | .oraImm v => .reads (.imm v)
  | .oraZp z => .reads (.mem (.zp z))
  | .oraZpx z => .reads (.mem (.zpx z))
  | .oraAbs a => .reads (.mem (.abs a))
  | .oraAbx a => .reads (.mem (.abx a))
  | .oraAby a => .reads (.mem (.aby a))
  | .oraIzx z => .reads (.mem (.izx z))
  | .oraIzy z => .reads (.mem (.izy z))
  | .eorImm v => .reads (.imm v)
  | .eorZp z => .reads (.mem (.zp z))
  | .eorZpx z => .reads (.mem (.zpx z))
  | .eorAbs a => .reads (.mem (.abs a))
  | .eorAbx a => .reads (.mem (.abx a))
  | .eorAby a => .reads (.mem (.aby a))
  | .eorIzx z => .reads (.mem (.izx z))
  | .eorIzy z => .reads (.mem (.izy z))
  | .bitZp z => .reads (.mem (.zp z))
  | .bitAbs a => .reads (.mem (.abs a))
  | .adcImm v => .reads (.imm v)
  | .adcZp z => .reads (.mem (.zp z))
  | .adcZpx z => .reads (.mem (.zpx z))
  | .adcAbs a => .reads (.mem (.abs a))
  | .adcAbx a => .reads (.mem (.abx a))
  | .adcAby a => .reads (.mem (.aby a))
  | .adcIzx z => .reads (.mem (.izx z))
  | .adcIzy z => .reads (.mem (.izy z))
  | .sbcImm v => .reads (.imm v)
  | .sbcZp z => .reads (.mem (.zp z))
  | .sbcZpx z => .reads (.mem (.zpx z))
  | .sbcAbs a => .reads (.mem (.abs a))
  | .sbcAbx a => .reads (.mem (.abx a))
  | .sbcAby a => .reads (.mem (.aby a))
  | .sbcIzx z => .reads (.mem (.izx z))
  | .sbcIzy z => .reads (.mem (.izy z))
  | .cmpImm v => .reads (.imm v)
  | .cmpZp z => .reads (.mem (.zp z))
  | .cmpZpx z => .reads (.mem (.zpx z))
  | .cmpAbs a => .reads (.mem (.abs a))
  | .cmpAbx a => .reads (.mem (.abx a))
  | .cmpAby a => .reads (.mem (.aby a))
  | .cmpIzx z => .reads (.mem (.izx z))
  | .cmpIzy z => .reads (.mem (.izy z))
  | .cpxImm v => .reads (.imm v)
  | .cpxZp z => .reads (.mem (.zp z))
  | .cpxAbs a => .reads (.mem (.abs a))
  | .cpyImm v => .reads (.imm v)
  | .cpyZp z => .reads (.mem (.zp z))
  | .cpyAbs a => .reads (.mem (.abs a))
  | .incZp z => .modifies (.zp z)
  | .incZpx z => .modifies (.zpx z)
  | .incAbs a => .modifies (.abs a)
  | .incAbx a => .modifies (.abx a)
  | .decZp z => .modifies (.zp z)
  | .decZpx z => .modifies (.zpx z)
  | .decAbs a => .modifies (.abs a)
  | .decAbx a => .modifies (.abx a)
  | .inx => .registers
  | .iny => .registers
  | .dex => .registers
  | .dey => .registers
  | .aslAcc => .accumulator
  | .aslZp z => .modifies (.zp z)
  | .aslZpx z => .modifies (.zpx z)
  | .aslAbs a => .modifies (.abs a)
  | .aslAbx a => .modifies (.abx a)
  | .lsrAcc => .accumulator
  | .lsrZp z => .modifies (.zp z)
  | .lsrZpx z => .modifies (.zpx z)
  | .lsrAbs a => .modifies (.abs a)
  | .lsrAbx a => .modifies (.abx a)
  | .rolAcc => .accumulator
  | .rolZp z => .modifies (.zp z)
  | .rolZpx z => .modifies (.zpx z)
  | .rolAbs a => .modifies (.abs a)
  | .rolAbx a => .modifies (.abx a)
  | .rorAcc => .accumulator
  | .rorZp z => .modifies (.zp z)
  | .rorZpx z => .modifies (.zpx z)
  | .rorAbs a => .modifies (.abs a)
  | .rorAbx a => .modifies (.abx a)
  | .jmpAbs _ => .jumps
  | .jmpInd _ => .jumps
  | .jsr _ => .pushes
  | .rts => .pulls
  | .bcc _ => .branches
  | .bcs _ => .branches
  | .beq _ => .branches
  | .bne _ => .branches
  | .bmi _ => .branches
  | .bpl _ => .branches
  | .bvc _ => .branches
  | .bvs _ => .branches
  | .clc => .registers
  | .sec => .registers
  | .cli => .registers
  | .sei => .registers
  | .cld => .registers
  | .sed => .registers
  | .clv => .registers
  | .brk => .pushes
  | .rti => .pulls
  | .nop => .registers

/-! ### Who writes what (10_state.md R21, R22, R27) -/

/-- Writers of A by mnemonic (R21); the accumulator forms of the shifts are the shape `accumulator`. -/
def writersA : List Mnemonic := [.lda, .pla, .txa, .tya, .adc, .sbc, .and, .ora, .eor]
/-- Writers of X (R21). -/
def writersX : List Mnemonic := [.ldx, .tax, .tsx, .inx, .dex]
/-- Writers of Y (R21). -/
def writersY : List Mnemonic := [.ldy, .tay, .iny, .dey]
/-- Instructions that push, pull or are TXS: the writers of SP (R22). -/
def writersSp : List Mnemonic := [.pha, .php, .pla, .plp, .jsr, .rts, .brk, .rti, .txs]
/-- Writers of C (R27). -/
def writersC : List Mnemonic :=
  [.adc, .sbc, .cmp, .cpx, .cpy, .asl, .lsr, .rol, .ror, .clc, .sec, .plp, .rti]
/-- Writers of Z, and of N (R27). -/
def writersZN : List Mnemonic :=
  [.lda, .ldx, .ldy, .tax, .tay, .txa, .tya, .tsx, .pla, .and, .ora, .eor, .adc, .sbc, .cmp, .cpx,
    .cpy, .inc, .dec, .inx, .iny, .dex, .dey, .asl, .lsr, .rol, .ror, .bit, .plp, .rti]
/-- Writers of I (R27). -/
def writersI : List Mnemonic := [.sei, .cli, .brk, .plp, .rti]
/-- Writers of D (R27). -/
def writersD : List Mnemonic := [.sed, .cld, .plp, .rti]
/-- Writers of V (R27). -/
def writersV : List Mnemonic := [.adc, .sbc, .bit, .clv, .plp, .rti]

/-! ### What a bus access may change -/

/-- The registers of a mapper that decide what every CPU and PPU access reaches: all but MMC3's
interrupt counter (64_mappers.md R661 to R664). -/
def MapperState.banks : MapperState → MapperState
  | .mmc3 m => .mmc3 { m with irqCounter := 0#8, irqReload := false, irqFlag := false, lastA12 := false }
  | m => m

/-- What CPU reads may change (20_memory.md R100): the bus latch, the vblank flag, `w`, `v` and
`read_buffer` of the PPU, the frame interrupt flag, the controllers' shift registers, MMC3's A12
counter; every byte of every memory stays. -/
structure ReadEffect (s t : State) : Prop where
  cpu : t.cpu = s.cpu
  ram : t.ram = s.ram
  pendingStall : t.pendingStall = s.pendingStall
  pads : t.pads = { s.pads with shift1 := t.pads.shift1, shift2 := t.pads.shift2 }
  ppu : t.ppu = { s.ppu with nmiOccurred := t.ppu.nmiOccurred, w := t.ppu.w, v := t.ppu.v,
                             readBuffer := t.ppu.readBuffer }
  apu : t.apu = { s.apu with frame := { s.apu.frame with frameIrq := t.apu.frame.frameIrq } }
  board : t.board = s.board
  mapper : t.mapper.banks = s.mapper.banks
  cart : t.cart = s.cart
  params : t.params = s.params
  cyc : t.cyc = s.cyc

/-- `ReadEffect` but for the CPU registers and `cyc`, which the instruction sets. -/
structure NothingStored (s t : State) : Prop where
  ram : t.ram = s.ram
  pendingStall : t.pendingStall = s.pendingStall
  pads : t.pads = { s.pads with shift1 := t.pads.shift1, shift2 := t.pads.shift2 }
  ppu : t.ppu = { s.ppu with nmiOccurred := t.ppu.nmiOccurred, w := t.ppu.w, v := t.ppu.v,
                             readBuffer := t.ppu.readBuffer }
  apu : t.apu = { s.apu with frame := { s.apu.frame with frameIrq := t.apu.frame.frameIrq } }
  board : t.board = s.board
  mapper : t.mapper.banks = s.mapper.banks
  cart : t.cart = s.cart
  params : t.params = s.params

/-- `a` is the PPU register with the index, or a mirror of it (20_memory.md R90, R92). -/
def isPpuReg (a : Word) (index : Nat) : Prop := 0x2000 ≤ a.toNat ∧ a.toNat < 0x4000 ∧ a.toNat % 8 = index

/-- `a` reaches the PPU's registers. -/
def isPpu (a : Word) : Prop := 0x2000 ≤ a.toNat ∧ a.toNat < 0x4000

/-- The PPU address a PPUDATA access uses (62_ppu.md R418, R419). -/
def vramAddr (s : State) : VAddr := s.ppu.v.setWidth 14

/-- The access is PPUDATA's and reaches the pattern tables: the one CPU access that notifies the mapper
of A12 (62_ppu.md R436). -/
def reachesChr (s : State) (a : Word) : Prop := isPpuReg a 7 ∧ (vramAddr s).toNat < 0x2000

/-- The access is PPUDATA's and reaches a nametable. -/
def reachesNametable (s : State) (a : Word) : Prop :=
  isPpuReg a 7 ∧ 0x2000 ≤ (vramAddr s).toNat ∧ (vramAddr s).toNat < 0x3F00

/-- `a` is one of the four registers of APU unit `k`: pulse 1, pulse 2, triangle, noise, DMC
(20_memory.md R90). -/
def isApuUnit (a : Word) (k : Nat) : Prop := 0x4000 + 4 * k ≤ a.toNat ∧ a.toNat < 0x4004 + 4 * k

/-- What one CPU read of `a` leaves unchanged, register by register (20_memory.md R90, R100). -/
structure ReadFrame (s t : State) (a : Word) : Prop where
  effect : ReadEffect s t
  status : ¬isPpuReg a 2 → t.ppu.nmiOccurred = s.ppu.nmiOccurred ∧ t.ppu.w = s.ppu.w
  data : ¬isPpuReg a 7 → t.ppu.v = s.ppu.v ∧ t.ppu.readBuffer = s.ppu.readBuffer
  frameIrq : a.toNat ≠ 0x4015 → t.apu = s.apu
  shift1 : a.toNat ≠ 0x4016 → t.pads.shift1 = s.pads.shift1
  shift2 : a.toNat ≠ 0x4017 → t.pads.shift2 = s.pads.shift2
  mapper : ¬reachesChr s a → t.mapper = s.mapper
  a12 : reachesChr s a → t.mapper = onPpuA12 s.mapper ((vramAddr s).getLsbD 12)

/-- What one CPU write to `a` leaves unchanged in the PPU but for its memories: the registers each index
does not name (62_ppu.md R410 to R419); at 0x4014, what the reads of an OAM DMA may change besides. -/
structure PpuStoreFrame (p q : Ppu) (a : Word) : Prop where
  kept : q = { p with v := q.v, t := q.t, x := q.x, w := q.w, ctrl := q.ctrl, mask := q.mask,
                      nmiOccurred := q.nmiOccurred, oamAddr := q.oamAddr, readBuffer := q.readBuffer,
                      vram := q.vram, palette := q.palette, oam := q.oam }
  ctrl : ¬isPpuReg a 0 → q.ctrl = p.ctrl
  mask : ¬isPpuReg a 1 → q.mask = p.mask
  oamAddr : ¬isPpuReg a 3 → ¬isPpuReg a 4 → q.oamAddr = p.oamAddr
  t : ¬isPpuReg a 0 → ¬isPpuReg a 5 → ¬isPpuReg a 6 → q.t = p.t
  x : ¬isPpuReg a 5 → q.x = p.x
  w : ¬isPpuReg a 5 → ¬isPpuReg a 6 → a.toNat ≠ 0x4014 → q.w = p.w
  v : ¬isPpuReg a 6 → ¬isPpuReg a 7 → a.toNat ≠ 0x4014 → q.v = p.v
  dmaReads : a.toNat ≠ 0x4014 → q.nmiOccurred = p.nmiOccurred ∧ q.readBuffer = p.readBuffer

/-- What one CPU write to `a` leaves unchanged in the APU: the units `a` does not name (63_apu.md R503,
R510 to R543, R550); at 0x4014, all but the frame interrupt, which a read of an OAM DMA may clear. -/
structure ApuStoreFrame (p q : Apu) (a : Word) : Prop where
  kept : q = { p with pulse1 := q.pulse1, pulse2 := q.pulse2, triangle := q.triangle, noise := q.noise,
                      dmc := q.dmc, frame := q.frame }
  pulse1 : ¬isApuUnit a 0 → a.toNat ≠ 0x4015 → a.toNat ≠ 0x4017 → q.pulse1 = p.pulse1
  pulse2 : ¬isApuUnit a 1 → a.toNat ≠ 0x4015 → a.toNat ≠ 0x4017 → q.pulse2 = p.pulse2
  triangle : ¬isApuUnit a 2 → a.toNat ≠ 0x4015 → a.toNat ≠ 0x4017 → q.triangle = p.triangle
  noise : ¬isApuUnit a 3 → a.toNat ≠ 0x4015 → a.toNat ≠ 0x4017 → q.noise = p.noise
  dmc : ¬isApuUnit a 4 → a.toNat ≠ 0x4015 → q.dmc = p.dmc
  frame : a.toNat ≠ 0x4014 → a.toNat ≠ 0x4017 → q.frame = p.frame
  dma : a.toNat ≠ 0x4017 → q.frame = { p.frame with frameIrq := q.frame.frameIrq }

/-- What one CPU write to `a` leaves unchanged, byte by byte and register by register (20_memory.md R90,
R101).  Where a byte of CHR RAM, of the nametables or of the palette is stored, its index is the one the
model's own `chrOffset`, `nametableCell` or `paletteIndex` gives for PPUDATA's address. -/
structure StoreFrame (s t : State) (a : Word) : Prop where
  ram : ∀ k, ¬(a.toNat < 0x2000 ∧ k = a.toNat % 0x0800) → Cells.read t.ram k = Cells.read s.ram k
  prgRam : ∀ k, ¬(0x6000 ≤ a.toNat ∧ a.toNat < 0x8000 ∧ prgRamWritable s = true ∧ k = a.toNat - 0x6000) →
    Cells.read t.board.prgRam k = Cells.read s.board.prgRam k
  chrRam : ∀ k, ¬(reachesChr s a ∧ s.cart.chrLen = 0 ∧ k = chrOffset s.mapper s.cart (vramAddr s)) →
    Cells.read t.board.chrRam k = Cells.read s.board.chrRam k
  vram : ∀ k, ¬(reachesNametable s a ∧ (nametableCell s (vramAddr s)).1 < 2 ∧
      k = (nametableCell s (vramAddr s)).1 * 1024 + (nametableCell s (vramAddr s)).2) →
    Cells.read t.ppu.vram k = Cells.read s.ppu.vram k
  cartVram : ∀ k, ¬(reachesNametable s a ∧ 2 ≤ (nametableCell s (vramAddr s)).1 ∧
      k = ((nametableCell s (vramAddr s)).1 - 2) * 1024 + (nametableCell s (vramAddr s)).2) →
    Cells.read t.board.cartVram k = Cells.read s.board.cartVram k
  palette : ∀ k, ¬(isPpuReg a 7 ∧ 0x3F00 ≤ (vramAddr s).toNat ∧ k = paletteIndex (vramAddr s)) →
    Cells.read t.ppu.palette k = Cells.read s.ppu.palette k
  oam : ∀ k, ¬(isPpuReg a 4 ∧ k = s.ppu.oamAddr.toNat) → a.toNat ≠ 0x4014 →
    Cells.read t.ppu.oam k = Cells.read s.ppu.oam k
  cpu : t.cpu = { s.cpu with nmiPending := t.cpu.nmiPending }
  nmiPending : ¬isPpuReg a 0 → t.cpu.nmiPending = s.cpu.nmiPending
  ppu : PpuStoreFrame s.ppu t.ppu a
  ppuKept : ¬isPpu a → a.toNat ≠ 0x4014 → t.ppu = s.ppu
  apu : ApuStoreFrame s.apu t.apu a
  pads : a.toNat ≠ 0x4016 → t.pads = { s.pads with shift1 := t.pads.shift1, shift2 := t.pads.shift2 }
  snapshots : t.pads.snapshot1 = s.pads.snapshot1 ∧ t.pads.snapshot2 = s.pads.snapshot2
  shifts : a.toNat ≠ 0x4016 → a.toNat ≠ 0x4014 →
    t.pads.shift1 = s.pads.shift1 ∧ t.pads.shift2 = s.pads.shift2
  mapper : a.toNat < 0x8000 → ¬reachesChr s a → a.toNat ≠ 0x4014 → t.mapper = s.mapper
  banks : a.toNat < 0x8000 → t.mapper.banks = s.mapper.banks
  a12 : reachesChr s a → t.mapper = onPpuA12 s.mapper ((vramAddr s).getLsbD 12)
  pendingStall : a.toNat ≠ 0x4014 → t.pendingStall = s.pendingStall
  cart : t.cart = s.cart
  params : t.params = s.params
  cyc : t.cyc = s.cyc

/-! ### Words of the claims -/

/-- The flags with Z and N from a Byte (00_scope.md R12). -/
def znOf (p : Flags) (v : Byte) : Flags := { p with z := decide (v = 0#8), n := v.getLsbD 7 }

/-- `t` with the CPU registers, and `cyc`, that an instruction leaves. -/
def ended (t : State) (c : Cpu) (cyc : Nat) : State := { t with cpu := c, cyc := cyc }

/-- `PC` moved past `len` bytes. -/
def past (c : Cpu) (len : Nat) : Word := c.pc + BitVec.ofNat 16 len

/-- No interrupt is serviced by the poll of this state (60_exceptions.md R310). -/
def quiet (s : State) : Prop := s.cpu.nmiPending = false ∧ ¬(s.irqLine = true ∧ s.cpu.p.i = false)

/-- The Byte of PRG ROM a CPU address in 0x8000..0xFFFF shows. -/
def prgByte (s : State) (a : Word) : Byte := Cells.read s.cart.prgRom (prgOffset s.mapper s.cart a)

/-- The Word the vector at `a`, 0xFFFA..0xFFFE, holds. -/
def vectorWord (s : State) (a : Word) : Word := prgByte s (a + 1#16) ++ prgByte s a

/-- RAM with a return address and a status Byte pushed from `sp` down (60_exceptions.md R321). -/
def pushedFrame (ram : Memory) (sp : Byte) (ret : Word) (status : Byte) : Memory :=
  Cells.write
    (Cells.write (Cells.write ram (0x0100 + sp.toNat) (ret.extractLsb' 8 8))
      (0x0100 + (sp - 1#8).toNat) (ret.extractLsb' 0 8))
    (0x0100 + (sp - 2#8).toNat) status

/-- P as a Byte: `N V 1 0 D I Z C` (10_state.md R26). -/
def statusOf (p : Flags) : Nat :=
  128 * bitNat p.n + 64 * bitNat p.v + 32 + 8 * bitNat p.d + 4 * bitNat p.i + 2 * bitNat p.z + bitNat p.c

/-- The six flags of a pulled Byte (10_state.md R26). -/
def flagsOf (b : Byte) : Flags :=
  { c := b.getLsbD 0, z := b.getLsbD 1, i := b.getLsbD 2, d := b.getLsbD 3, v := b.getLsbD 6, n := b.getLsbD 7 }

/-! ### The invariant -/

/-- Every array is in canonical form and inside its length (10_state.md R33, R38, R40). -/
structure State.ArraysWf (s : State) : Prop where
  ram : Memory.wf 2048 s.ram
  vram : Memory.wf 2048 s.ppu.vram
  palette : Cells.wf 32 s.ppu.palette
  oam : Memory.wf 256 s.ppu.oam
  secondaryOam : Memory.wf 32 s.ppu.secondaryOam
  frameBuffer : Cells.wf 61440 s.ppu.frameBuffer
  prgRam : Memory.wf 8192 s.board.prgRam
  chrRam : Memory.wf 8192 s.board.chrRam
  cartVram : Memory.wf 2048 s.board.cartVram

/-- The PPU's position is on the picture and its counts are in range (10_state.md R38). -/
structure Ppu.InRange (p : Ppu) : Prop where
  scanline : -1 ≤ p.scanline ∧ p.scanline ≤ 260
  dot : p.dot ≤ 340
  spriteCount : p.spriteCount ≤ 8

/-- The APU's counters are in range (10_state.md R39, 63_apu.md R501, R533, R544, R545, R571). -/
structure Apu.InRange (a : Apu) : Prop where
  lfsr : a.noise.lfsr ≠ 0#15
  bitsRemaining : 1 ≤ a.dmc.bitsRemaining ∧ a.dmc.bitsRemaining ≤ 8
  sampleAddr : 0xC000 ≤ a.dmc.sampleAddr.toNat
  curAddr : a.dmc.bytesRemaining ≠ 0#12 → 0x8000 ≤ a.dmc.curAddr.toNat
  noiseTimer : a.noise.timer < 4068
  dmcTimer : a.dmc.timer < 428
  fcCycle : a.frame.fcCycle < if a.frame.fiveStep then 37282 else 29830
  sampleAcc : a.sampleAcc < Config.cpuHz

/-- The mapper's registers belong to the cartridge, and MMC1's serial count is in range (10_state.md
R41, 64_mappers.md R640). -/
structure State.MapperWf (s : State) : Prop where
  kind : s.mapper.kind = s.cart.mapper
  writeCount : ∀ m, s.mapper = .mmc1 m → m.writeCount ≤ 4

/-- The invariant of the machine. -/
structure State.Inv (s : State) : Prop where
  arrays : s.ArraysWf
  ppu : s.ppu.InRange
  apu : s.apu.InRange
  mapper : s.MapperWf
  cart : s.cart.wf
  params : s.params.wf

end Sys2Proof.Machine
end

