-- ==== Sys2Proof/Certificates/Slice0/Obligations.lean ====
section
/-! DEFINITION. The statements.  Each says which rule of spec/ it formalises. -/

open Sys2Proof Sys2Proof.Machine

/-! ### Encoding -/

/-- 30_encoding.md R130, R132, R140: decoding what encode writes gives the instruction back, with every
operand at every value, and leaves the bytes after it. -/
def Obligations.EncodeThenDecode : Prop :=
  ∀ (i : Instr) (rest : List Byte), i.wf = true → decode (encode i ++ rest) = some (i, rest)

/-- 30_encoding.md R130, R140: whatever decodes is the encoding of what it decodes to. -/
def Obligations.DecodeThenEncode : Prop :=
  ∀ (bytes rest : List Byte) (i : Instr), decode bytes = some (i, rest) → bytes = encode i ++ rest

/-- 30_encoding.md R140, R146: words of the table, each written out byte by byte. -/
def Obligations.SampleEncodings : Prop :=
  decode [0xA9#8, 0x42#8] = some (.ldaImm 0x42#8, []) ∧
  decode [0x8D#8, 0x00#8, 0x02#8] = some (.staAbs 0x0200#16, []) ∧
  decode [0xEA#8] = some (.nop, []) ∧
  decode [0xA1#8, 0x20#8] = some (.ldaIzx 0x20#8, []) ∧
  decode [0xB1#8, 0x20#8] = some (.ldaIzy 0x20#8, []) ∧
  decode [0xD0#8, 0xFB#8] = some (.bne 0xFB#8, []) ∧
  decode [0x6C#8, 0xFF#8, 0x02#8] = some (.jmpInd 0x02FF#16, []) ∧
  decode [0x0A#8] = some (.aslAcc, []) ∧
  decode [0xB6#8, 0x10#8] = some (.ldxZpy 0x10#8, []) ∧
  decode [0x00#8, 0x12#8] = some (.brk, [0x12#8])

/-- 30_encoding.md R144: the opcode bytes that decode to nothing, whatever follows them, are exactly
the 105 the rule lists. -/
def Obligations.UndefinedOpcodes : Prop :=
  ∀ op b1 b2 : Byte, decode [op, b1, b2] = none ↔ op.toNat ∈
    [0x02, 0x03, 0x04, 0x07, 0x0B, 0x0C, 0x0F, 0x12, 0x13, 0x14, 0x17, 0x1A, 0x1B, 0x1C, 0x1F, 0x22,
     0x23, 0x27, 0x2B, 0x2F, 0x32, 0x33, 0x34, 0x37, 0x3A, 0x3B, 0x3C, 0x3F, 0x42, 0x43, 0x44, 0x47,
     0x4B, 0x4F, 0x52, 0x53, 0x54, 0x57, 0x5A, 0x5B, 0x5C, 0x5F, 0x62, 0x63, 0x64, 0x67, 0x6B, 0x6F] ++
    [0x72, 0x73, 0x74, 0x77, 0x7A, 0x7B, 0x7C, 0x7F, 0x80, 0x82, 0x83, 0x87, 0x89, 0x8B, 0x8F, 0x92,
     0x93, 0x97, 0x9B, 0x9C, 0x9E, 0x9F, 0xA3, 0xA7, 0xAB, 0xAF, 0xB2, 0xB3, 0xB7, 0xBB, 0xBF, 0xC2,
     0xC3, 0xC7, 0xCB, 0xCF, 0xD2, 0xD3, 0xD4, 0xD7, 0xDA, 0xDB, 0xDC, 0xDF, 0xE2, 0xE3, 0xE7, 0xEB,
     0xEF, 0xF2, 0xF3, 0xF4, 0xF7, 0xFA, 0xFB, 0xFC, 0xFF]

/-! ### The step -/

/-- 60_exceptions.md R300, 61_bus_dma_controllers.md R350: with no interrupt to service, when the bytes
read at PC decode to `i`, the step is `i`'s meaning on the state after those reads, then the stalls and
the cycle count, then `3 * cyc` dots and `cyc` APU steps. -/
def Obligations.StepRunsDecodedInstruction : Prop :=
  ∀ (s : State) (n : Nat) (i : Instr), quiet s →
    decode (fetchBytes n s.cpu.pc s).1 = some (i, []) →
    step s = andThen (exec i (fetchBytes n s.cpu.pc s).2) fun t =>
      let cyc := t.cyc + t.pendingStall
      .next (apuRun cyc (ppuRun (3 * cyc)
        { t with cpu := { t.cpu with cycles := t.cpu.cycles + cyc }, pendingStall := 0, cyc := cyc }))

/-- 60_exceptions.md R301: an opcode outside the table and outside UNOFFICIAL_NOPS stops the step; where
PC addresses RAM or the cartridge nothing has changed but the bus latch. -/
def Obligations.UndefinedOpcodeFaults : Prop :=
  ∀ s : State, quiet s → formOf (busRead s s.cpu.pc).1 = none →
    s.params.unofficialNops.lookup (busRead s s.cpu.pc).1 = none →
    step s = .fault (.decodeError (busRead s s.cpu.pc).1 s.cpu.pc (busRead s s.cpu.pc).2) ∧
    (s.cpu.pc.toNat < 0x2000 ∨ 0x4020 ≤ s.cpu.pc.toNat →
      (busRead s s.cpu.pc).2 = { s with dataBus := (busRead s s.cpu.pc).1 })

/-! ### Interrupts -/

/-- 60_exceptions.md R320, R321: the interrupt sequence pushes PC and P with bit 5 set and bit 4 clear,
sets I, loads PC from the vector, and changes nothing else but the bus latch. -/
def Obligations.InterruptSequence : Prop :=
  ∀ (s : State) (vector : Word), 0x8000 ≤ vector.toNat → vector.toNat < 0xFFFF →
    takeInterrupt vector s.cpu.pc false s =
      { s with
        ram := pushedFrame s.ram s.cpu.sp s.cpu.pc (BitVec.ofNat 8 (statusOf s.cpu.p))
        dataBus := prgByte s (vector + 1#16)
        cpu := { s.cpu with sp := s.cpu.sp - 3#8, p := { s.cpu.p with i := true },
                            pc := vectorWord s vector } }

/-- 60_exceptions.md R312: a latched NMI is serviced whatever I says: the latch is cleared and the
sequence of R320 runs with vector 0xFFFA in 7 cycles, to which the stalls are added. -/
def Obligations.NmiService : Prop :=
  ∀ s : State, s.cpu.nmiPending = true →
    cpuStep s = .next
      { s with
        ram := pushedFrame s.ram s.cpu.sp s.cpu.pc (BitVec.ofNat 8 (statusOf s.cpu.p))
        dataBus := prgByte s 0xFFFB#16
        cpu := { s.cpu with sp := s.cpu.sp - 3#8, p := { s.cpu.p with i := true },
                            pc := vectorWord s 0xFFFA#16, nmiPending := false,
                            cycles := s.cpu.cycles + (7 + s.pendingStall) }
        pendingStall := 0
        cyc := 7 + s.pendingStall }

/-- 60_exceptions.md R316 to R318: the line is the OR of the three device flags; with no NMI, the line high
and I clear, the IRQ is serviced through 0xFFFE in 7 cycles and no device flag is cleared: the line stays
high; masked by I it is not lost: the instruction at PC runs. -/
def Obligations.IrqService : Prop :=
  ∀ s : State,
    (s.irqLine = true ↔ s.apu.frame.frameIrq = true ∨ s.apu.dmc.irqFlag = true ∨
      ∃ m, s.mapper = .mmc3 m ∧ m.irqFlag = true) ∧
    (s.cpu.nmiPending = false → s.irqLine = true → s.cpu.p.i = false →
      ∃ t, cpuStep s = .next t ∧ t.irqLine = true ∧ t =
        { s with
          ram := pushedFrame s.ram s.cpu.sp s.cpu.pc (BitVec.ofNat 8 (statusOf s.cpu.p))
          dataBus := prgByte s 0xFFFF#16
          cpu := { s.cpu with sp := s.cpu.sp - 3#8, p := { s.cpu.p with i := true },
                              pc := vectorWord s 0xFFFE#16,
                              cycles := s.cpu.cycles + (7 + s.pendingStall) }
          pendingStall := 0
          cyc := 7 + s.pendingStall }) ∧
    (s.cpu.nmiPending = false → s.cpu.p.i = true →
      cpuStep s = andThen (cpuInstruction s) fun t => .next (settle t))

/-- 49_system.md R270: BRK pushes PC + 2 and P with bits 5 and 4 set, sets I, goes through 0xFFFE,
7 cycles. -/
def Obligations.BreakInstruction : Prop :=
  ∀ s : State, exec .brk s = .next
    { s with
      ram := pushedFrame s.ram s.cpu.sp (s.cpu.pc + 2#16) (BitVec.ofNat 8 (statusOf s.cpu.p + 16))
      dataBus := prgByte s 0xFFFF#16
      cpu := { s.cpu with sp := s.cpu.sp - 3#8, p := { s.cpu.p with i := true },
                          pc := vectorWord s 0xFFFE#16 }
      cyc := 7 }

/-- 49_system.md R271: RTI pulls P, then PC low, then PC high; 6 cycles. -/
def Obligations.ReturnFromInterrupt : Prop :=
  ∀ s : State,
    let b := Cells.read s.ram (0x0100 + (s.cpu.sp + 1#8).toNat)
    let lo := Cells.read s.ram (0x0100 + (s.cpu.sp + 2#8).toNat)
    let hi := Cells.read s.ram (0x0100 + (s.cpu.sp + 3#8).toNat)
    exec .rti s = .next
      { s with
        dataBus := hi
        cpu := { s.cpu with sp := s.cpu.sp + 3#8, p := flagsOf b, pc := hi ++ lo }
        cyc := 6 }

/-- 60_exceptions.md R320 to R322: an interrupt sequence, or BRK, followed by RTI gives back the flags,
SP, A, X and Y, and PC at the interrupted instruction, or two past BRK. -/
def Obligations.InterruptRoundTrip : Prop :=
  ∀ s : State,
    (∀ t, exec .rti (takeInterrupt 0xFFFA#16 s.cpu.pc false s) = .next t →
      t.cpu = s.cpu) ∧
    (∀ t, exec .rti (takeInterrupt 0xFFFE#16 s.cpu.pc false s) = .next t →
      t.cpu = s.cpu) ∧
    (∀ t u, exec .brk s = .next t → exec .rti t = .next u → u.cpu = { s.cpu with pc := s.cpu.pc + 2#16 })

/-! ### Results of the instructions -/

/-- 30_encoding.md R134 to R136, R139: the effective address, the page crossing and the pointer reads of
every mode, in integers; the operand is the immediate, or one read of the effective address. -/
def Obligations.AddressingModes : Prop :=
  ∀ (s : State) (z : Byte) (a : Word),
    (MemMode.zp z).locate s = ⟨BitVec.ofNat 16 z.toNat, false, s⟩ ∧
    (MemMode.zpx z).locate s = ⟨BitVec.ofNat 16 ((z.toNat + s.cpu.x.toNat) % 256), false, s⟩ ∧
    (MemMode.zpy z).locate s = ⟨BitVec.ofNat 16 ((z.toNat + s.cpu.y.toNat) % 256), false, s⟩ ∧
    (MemMode.abs a).locate s = ⟨a, false, s⟩ ∧
    (MemMode.abx a).locate s = ⟨BitVec.ofNat 16 (a.toNat + s.cpu.x.toNat),
      decide (a.toNat / 256 ≠ (a.toNat + s.cpu.x.toNat) % 65536 / 256), s⟩ ∧
    (MemMode.aby a).locate s = ⟨BitVec.ofNat 16 (a.toNat + s.cpu.y.toNat),
      decide (a.toNat / 256 ≠ (a.toNat + s.cpu.y.toNat) % 65536 / 256), s⟩ ∧
    (let lo := busRead s (BitVec.ofNat 16 ((z.toNat + s.cpu.x.toNat) % 256))
     let hi := busRead lo.2 (BitVec.ofNat 16 ((z.toNat + s.cpu.x.toNat + 1) % 256))
     (MemMode.izx z).locate s = ⟨hi.1 ++ lo.1, false, hi.2⟩) ∧
    (let lo := busRead s (BitVec.ofNat 16 z.toNat)
     let hi := busRead lo.2 (BitVec.ofNat 16 ((z.toNat + 1) % 256))
     let base := 256 * hi.1.toNat + lo.1.toNat
     (MemMode.izy z).locate s = ⟨BitVec.ofNat 16 (base + s.cpu.y.toNat),
       decide (base / 256 ≠ (base + s.cpu.y.toNat) % 65536 / 256), hi.2⟩) ∧
    (Operand.imm z).fetch s = ⟨z, false, s⟩ ∧
    ∀ m : MemMode,
      let l := m.locate s
      let r := busRead l.after l.ea
      (Operand.mem m).fetch s = ⟨r.1, l.crossed, r.2⟩

/-- 40_load_store.md R170 to R172: LDA, LDX and LDY in every mode: one read of the operand, Z and N,
PC past the instruction, the base cycles and one more on a page crossing; nothing else changes. -/
def Obligations.LoadResults : Prop :=
  ∀ (s : State) (v z : Byte) (a : Word),
    (∀ (i : Instr) (o : Operand) (len cyc : Nat),
      (i, o, len, cyc) ∈
        [(Instr.ldaImm v, Operand.imm v, 2, 2), (.ldaZp z, .mem (.zp z), 2, 3), (.ldaZpx z, .mem (.zpx z), 2, 4),
         (.ldaAbs a, .mem (.abs a), 3, 4), (.ldaAbx a, .mem (.abx a), 3, 4), (.ldaAby a, .mem (.aby a), 3, 4),
         (.ldaIzx z, .mem (.izx z), 2, 6), (.ldaIzy z, .mem (.izy z), 2, 5)] →
      let m := o.fetch s
      exec i s = .next (ended m.after
        { s.cpu with a := m.value, p := znOf s.cpu.p m.value, pc := past s.cpu len } (cyc + bitNat m.crossed))) ∧
    (∀ (i : Instr) (o : Operand) (len cyc : Nat),
      (i, o, len, cyc) ∈
        [(Instr.ldxImm v, Operand.imm v, 2, 2), (.ldxZp z, .mem (.zp z), 2, 3), (.ldxZpy z, .mem (.zpy z), 2, 4),
         (.ldxAbs a, .mem (.abs a), 3, 4), (.ldxAby a, .mem (.aby a), 3, 4)] →
      let m := o.fetch s
      exec i s = .next (ended m.after
        { s.cpu with x := m.value, p := znOf s.cpu.p m.value, pc := past s.cpu len } (cyc + bitNat m.crossed))) ∧
    (∀ (i : Instr) (o : Operand) (len cyc : Nat),
      (i, o, len, cyc) ∈
        [(Instr.ldyImm v, Operand.imm v, 2, 2), (.ldyZp z, .mem (.zp z), 2, 3), (.ldyZpx z, .mem (.zpx z), 2, 4),
         (.ldyAbs a, .mem (.abs a), 3, 4), (.ldyAbx a, .mem (.abx a), 3, 4)] →
      let m := o.fetch s
      exec i s = .next (ended m.after
        { s.cpu with y := m.value, p := znOf s.cpu.p m.value, pc := past s.cpu len } (cyc + bitNat m.crossed)))

/-- 40_load_store.md R173 to R175: STA, STX and STY in every mode: one write of the register at the
mode's address, no flag, the base cycles; a refused write stops the instruction before anything but its
pointer reads. -/
def Obligations.StoreResults : Prop :=
  ∀ (s : State) (z : Byte) (a : Word) (i : Instr) (m : MemMode) (r : Byte) (len cyc : Nat),
    (i, m, r, len, cyc) ∈
      [(Instr.staZp z, MemMode.zp z, s.cpu.a, 2, 3), (.staZpx z, .zpx z, s.cpu.a, 2, 4),
       (.staAbs a, .abs a, s.cpu.a, 3, 4), (.staAbx a, .abx a, s.cpu.a, 3, 5), (.staAby a, .aby a, s.cpu.a, 3, 5),
       (.staIzx z, .izx z, s.cpu.a, 2, 6), (.staIzy z, .izy z, s.cpu.a, 2, 6),
       (.stxZp z, .zp z, s.cpu.x, 2, 3), (.stxZpy z, .zpy z, s.cpu.x, 2, 4), (.stxAbs a, .abs a, s.cpu.x, 3, 4),
       (.styZp z, .zp z, s.cpu.y, 2, 3), (.styZpx z, .zpx z, s.cpu.y, 2, 4), (.styAbs a, .abs a, s.cpu.y, 3, 4)] →
    let l := m.locate s
    let t := busStore l.after l.ea r
    (writeRefused s l.ea = false → exec i s = .next (ended t { t.cpu with pc := past s.cpu len } cyc)) ∧
    (writeRefused s l.ea = true → exec i s = .fault (.badAccess l.ea .write l.after))

/-- 41_transfer.md R180 to R185: the six transfers, 2 cycles each; TXS alone sets no flag. -/
def Obligations.TransferResults : Prop :=
  ∀ s : State,
    let c := s.cpu
    exec .tax s = .next (ended s { c with x := c.a, p := znOf c.p c.a, pc := past c 1 } 2) ∧
    exec .tay s = .next (ended s { c with y := c.a, p := znOf c.p c.a, pc := past c 1 } 2) ∧
    exec .txa s = .next (ended s { c with a := c.x, p := znOf c.p c.x, pc := past c 1 } 2) ∧
    exec .tya s = .next (ended s { c with a := c.y, p := znOf c.p c.y, pc := past c 1 } 2) ∧
    exec .tsx s = .next (ended s { c with x := c.sp, p := znOf c.p c.sp, pc := past c 1 } 2) ∧
    exec .txs s = .next (ended s { c with sp := c.x, pc := past c 1 } 2)

/-- 42_stack.md R190 to R193: PHA and PHP store one byte of RAM at 0x0100 + SP, then decrement SP; PLA
and PLP increment SP, then read one byte of RAM at 0x0100 + SP. -/
def Obligations.StackResults : Prop :=
  ∀ s : State,
    let c := s.cpu
    let pushed (v : Byte) : State :=
      { s with ram := Cells.write s.ram (0x0100 + c.sp.toNat) v, dataBus := v,
               cpu := { c with sp := c.sp - 1#8, pc := past c 1 }, cyc := 3 }
    let b := Cells.read s.ram (0x0100 + (c.sp + 1#8).toNat)
    exec .pha s = .next (pushed c.a) ∧
    exec .php s = .next (pushed (BitVec.ofNat 8 (statusOf c.p + 16))) ∧
    exec .pla s = .next
      { s with dataBus := b, cyc := 4,
               cpu := { c with sp := c.sp + 1#8, a := b, p := znOf c.p b, pc := past c 1 } } ∧
    exec .plp s = .next
      { s with dataBus := b, cyc := 4, cpu := { c with sp := c.sp + 1#8, p := flagsOf b, pc := past c 1 } }

/-- 42_stack.md R194: the round trips of the stack. -/
def Obligations.StackRoundTrips : Prop :=
  ∀ s : State,
    (∀ t u, exec .pha s = .next t → exec .pla t = .next u → u.cpu.a = s.cpu.a ∧ u.cpu.sp = s.cpu.sp) ∧
    (∀ t1 t2 t3 t4, exec .txa s = .next t1 → exec .pha t1 = .next t2 → exec .pla t2 = .next t3 →
      exec .tax t3 = .next t4 → t4.cpu.x = s.cpu.x ∧ t4.cpu.sp = s.cpu.sp) ∧
    (∀ t1 t2 t3 t4, exec .tya s = .next t1 → exec .pha t1 = .next t2 → exec .pla t2 = .next t3 →
      exec .tay t3 = .next t4 → t4.cpu.y = s.cpu.y ∧ t4.cpu.sp = s.cpu.sp) ∧
    (∀ t u, exec .php s = .next t → exec .plp t = .next u → u.cpu.p = s.cpu.p ∧ u.cpu.sp = s.cpu.sp) ∧
    (∀ t u, exec .php s = .next t → exec .pla t = .next u →
      u.cpu.a = BitVec.ofNat 8 (statusOf s.cpu.p + 16) ∧ u.cpu.sp = s.cpu.sp) ∧
    (∀ (v : Byte) t1 t2 t3, exec (.ldaImm v) s = .next t1 → exec .pha t1 = .next t2 →
      exec .plp t2 = .next t3 →
      BitVec.ofNat 8 (statusOf t3.cpu.p) = (v &&& 0xCF#8) ||| 0x20#8 ∧ t3.cpu.sp = s.cpu.sp)

/-- 43_logic.md R200 to R202: AND, ORA and EOR in every mode. -/
def Obligations.LogicResults : Prop :=
  ∀ (s : State) (v z : Byte) (a : Word) (i : Instr) (o : Operand) (f : Byte → Byte) (len cyc : Nat),
    (i, o, f, len, cyc) ∈
      [(Instr.andImm v, Operand.imm v, (s.cpu.a &&& ·), 2, 2), (.andZp z, .mem (.zp z), (s.cpu.a &&& ·), 2, 3),
       (.andZpx z, .mem (.zpx z), (s.cpu.a &&& ·), 2, 4), (.andAbs a, .mem (.abs a), (s.cpu.a &&& ·), 3, 4),
       (.andAbx a, .mem (.abx a), (s.cpu.a &&& ·), 3, 4), (.andAby a, .mem (.aby a), (s.cpu.a &&& ·), 3, 4),
       (.andIzx z, .mem (.izx z), (s.cpu.a &&& ·), 2, 6), (.andIzy z, .mem (.izy z), (s.cpu.a &&& ·), 2, 5)] ++
      [(Instr.oraImm v, Operand.imm v, (s.cpu.a ||| ·), 2, 2), (.oraZp z, .mem (.zp z), (s.cpu.a ||| ·), 2, 3),
       (.oraZpx z, .mem (.zpx z), (s.cpu.a ||| ·), 2, 4), (.oraAbs a, .mem (.abs a), (s.cpu.a ||| ·), 3, 4),
       (.oraAbx a, .mem (.abx a), (s.cpu.a ||| ·), 3, 4), (.oraAby a, .mem (.aby a), (s.cpu.a ||| ·), 3, 4),
       (.oraIzx z, .mem (.izx z), (s.cpu.a ||| ·), 2, 6), (.oraIzy z, .mem (.izy z), (s.cpu.a ||| ·), 2, 5)] ++
      [(Instr.eorImm v, Operand.imm v, (s.cpu.a ^^^ ·), 2, 2), (.eorZp z, .mem (.zp z), (s.cpu.a ^^^ ·), 2, 3),
       (.eorZpx z, .mem (.zpx z), (s.cpu.a ^^^ ·), 2, 4), (.eorAbs a, .mem (.abs a), (s.cpu.a ^^^ ·), 3, 4),
       (.eorAbx a, .mem (.abx a), (s.cpu.a ^^^ ·), 3, 4), (.eorAby a, .mem (.aby a), (s.cpu.a ^^^ ·), 3, 4),
       (.eorIzx z, .mem (.izx z), (s.cpu.a ^^^ ·), 2, 6), (.eorIzy z, .mem (.izy z), (s.cpu.a ^^^ ·), 2, 5)] →
    let m := o.fetch s
    exec i s = .next (ended m.after
      { s.cpu with a := f m.value, p := znOf s.cpu.p (f m.value), pc := past s.cpu len } (cyc + bitNat m.crossed))

/-- 43_logic.md R203: BIT reads once; Z from `A & M`, N and V from bits 7 and 6 of `M`; A stays. -/
def Obligations.BitTestResults : Prop :=
  ∀ (s : State) (z : Byte) (a : Word) (i : Instr) (o : Operand) (len cyc : Nat),
    (i, o, len, cyc) ∈ [(Instr.bitZp z, Operand.mem (.zp z), 2, 3), (.bitAbs a, .mem (.abs a), 3, 4)] →
    let m := o.fetch s
    exec i s = .next (ended m.after
      { s.cpu with p := { s.cpu.p with z := decide (s.cpu.a &&& m.value = 0#8), n := m.value.getLsbD 7,
                                       v := m.value.getLsbD 6 }
                   pc := past s.cpu len } cyc)

/-- 44_arithmetic_compare.md R210: ADC in every mode: the binary sum whatever D is, C when it exceeds
255, V when the signed sum leaves -128..127. -/
def Obligations.AddWithCarry : Prop :=
  ∀ (s : State) (v z : Byte) (a : Word) (i : Instr) (o : Operand) (len cyc : Nat),
    (i, o, len, cyc) ∈
      [(Instr.adcImm v, Operand.imm v, 2, 2), (.adcZp z, .mem (.zp z), 2, 3), (.adcZpx z, .mem (.zpx z), 2, 4),
       (.adcAbs a, .mem (.abs a), 3, 4), (.adcAbx a, .mem (.abx a), 3, 4), (.adcAby a, .mem (.aby a), 3, 4),
       (.adcIzx z, .mem (.izx z), 2, 6), (.adcIzy z, .mem (.izy z), 2, 5)] →
    let m := o.fetch s
    let sum := s.cpu.a.toNat + m.value.toNat + bitNat s.cpu.p.c
    let signed := s.cpu.a.toInt + m.value.toInt + bitNat s.cpu.p.c
    let r := BitVec.ofNat 8 (sum % 256)
    exec i s = .next (ended m.after
      { s.cpu with a := r
                   p := { znOf s.cpu.p r with c := decide (sum > 255), v := decide (signed < -128 ∨ 127 < signed) }
                   pc := past s.cpu len } (cyc + bitNat m.crossed))

/-- 44_arithmetic_compare.md R211: SBC in every mode: `A - M - (1 - C)`, C when no borrow was needed, V
when the signed difference leaves -128..127. -/
def Obligations.SubtractWithBorrow : Prop :=
  ∀ (s : State) (v z : Byte) (a : Word) (i : Instr) (o : Operand) (len cyc : Nat),
    (i, o, len, cyc) ∈
      [(Instr.sbcImm v, Operand.imm v, 2, 2), (.sbcZp z, .mem (.zp z), 2, 3), (.sbcZpx z, .mem (.zpx z), 2, 4),
       (.sbcAbs a, .mem (.abs a), 3, 4), (.sbcAbx a, .mem (.abx a), 3, 4), (.sbcAby a, .mem (.aby a), 3, 4),
       (.sbcIzx z, .mem (.izx z), 2, 6), (.sbcIzy z, .mem (.izy z), 2, 5)] →
    let m := o.fetch s
    let borrow := 1 - bitNat s.cpu.p.c
    let signed : Int := s.cpu.a.toInt - m.value.toInt - borrow
    let r := s.cpu.a - m.value - BitVec.ofNat 8 borrow
    exec i s = .next (ended m.after
      { s.cpu with a := r
                   p := { znOf s.cpu.p r with c := decide (m.value.toNat + borrow ≤ s.cpu.a.toNat),
                                              v := decide (signed < -128 ∨ 127 < signed) }
                   pc := past s.cpu len } (cyc + bitNat m.crossed))

/-- 44_arithmetic_compare.md R212 to R214: CMP, CPX and CPY in every mode: C, Z and N from the unsigned
comparison and the wrapped difference; V and the registers stay. -/
def Obligations.CompareResults : Prop :=
  ∀ (s : State) (v z : Byte) (a : Word) (i : Instr) (r : Byte) (o : Operand) (len cyc : Nat),
    (i, r, o, len, cyc) ∈
      [(Instr.cmpImm v, s.cpu.a, Operand.imm v, 2, 2), (.cmpZp z, s.cpu.a, .mem (.zp z), 2, 3),
       (.cmpZpx z, s.cpu.a, .mem (.zpx z), 2, 4), (.cmpAbs a, s.cpu.a, .mem (.abs a), 3, 4),
       (.cmpAbx a, s.cpu.a, .mem (.abx a), 3, 4), (.cmpAby a, s.cpu.a, .mem (.aby a), 3, 4),
       (.cmpIzx z, s.cpu.a, .mem (.izx z), 2, 6), (.cmpIzy z, s.cpu.a, .mem (.izy z), 2, 5),
       (.cpxImm v, s.cpu.x, .imm v, 2, 2), (.cpxZp z, s.cpu.x, .mem (.zp z), 2, 3),
       (.cpxAbs a, s.cpu.x, .mem (.abs a), 3, 4), (.cpyImm v, s.cpu.y, .imm v, 2, 2),
       (.cpyZp z, s.cpu.y, .mem (.zp z), 2, 3), (.cpyAbs a, s.cpu.y, .mem (.abs a), 3, 4)] →
    let m := o.fetch s
    exec i s = .next (ended m.after
      { s.cpu with p := { s.cpu.p with c := decide (m.value.toNat ≤ r.toNat), z := decide (r = m.value),
                                       n := (r - m.value).getLsbD 7 }
                   pc := past s.cpu len } (cyc + bitNat m.crossed))

/-- 45_incdec.md R220, R221 and 46_shift_rotate.md R230 to R233: the read-modify-write instructions in
every memory mode: one read, one write of the result, then the flags; a refused write stops after the
read with flags and PC unchanged. -/
def Obligations.ModifyResults : Prop :=
  ∀ (s : State) (z : Byte) (a : Word) (i : Instr) (m : MemMode) (len cyc : Nat) (f : Byte → Byte)
      (carry : Byte → Bool),
    (i, m, len, cyc, f, carry) ∈
      [(Instr.incZp z, MemMode.zp z, 2, 5, (· + 1#8), fun _ => s.cpu.p.c),
       (.incZpx z, .zpx z, 2, 6, (· + 1#8), fun _ => s.cpu.p.c),
       (.incAbs a, .abs a, 3, 6, (· + 1#8), fun _ => s.cpu.p.c),
       (.incAbx a, .abx a, 3, 7, (· + 1#8), fun _ => s.cpu.p.c),
       (.decZp z, .zp z, 2, 5, (· - 1#8), fun _ => s.cpu.p.c),
       (.decZpx z, .zpx z, 2, 6, (· - 1#8), fun _ => s.cpu.p.c),
       (.decAbs a, .abs a, 3, 6, (· - 1#8), fun _ => s.cpu.p.c),
       (.decAbx a, .abx a, 3, 7, (· - 1#8), fun _ => s.cpu.p.c)] ++
      [(Instr.aslZp z, MemMode.zp z, 2, 5, fun b => BitVec.ofNat 8 (2 * b.toNat), (·.getLsbD 7)),
       (.aslZpx z, .zpx z, 2, 6, fun b => BitVec.ofNat 8 (2 * b.toNat), (·.getLsbD 7)),
       (.aslAbs a, .abs a, 3, 6, fun b => BitVec.ofNat 8 (2 * b.toNat), (·.getLsbD 7)),
       (.aslAbx a, .abx a, 3, 7, fun b => BitVec.ofNat 8 (2 * b.toNat), (·.getLsbD 7)),
       (.lsrZp z, .zp z, 2, 5, fun b => BitVec.ofNat 8 (b.toNat / 2), (·.getLsbD 0)),
       (.lsrZpx z, .zpx z, 2, 6, fun b => BitVec.ofNat 8 (b.toNat / 2), (·.getLsbD 0)),
       (.lsrAbs a, .abs a, 3, 6, fun b => BitVec.ofNat 8 (b.toNat / 2), (·.getLsbD 0)),
       (.lsrAbx a, .abx a, 3, 7, fun b => BitVec.ofNat 8 (b.toNat / 2), (·.getLsbD 0))] ++
      [(Instr.rolZp z, MemMode.zp z, 2, 5, fun b => BitVec.ofNat 8 (2 * b.toNat + bitNat s.cpu.p.c), (·.getLsbD 7)),
       (.rolZpx z, .zpx z, 2, 6, fun b => BitVec.ofNat 8 (2 * b.toNat + bitNat s.cpu.p.c), (·.getLsbD 7)),
       (.rolAbs a, .abs a, 3, 6, fun b => BitVec.ofNat 8 (2 * b.toNat + bitNat s.cpu.p.c), (·.getLsbD 7)),
       (.rolAbx a, .abx a, 3, 7, fun b => BitVec.ofNat 8 (2 * b.toNat + bitNat s.cpu.p.c), (·.getLsbD 7)),
       (.rorZp z, .zp z, 2, 5, fun b => BitVec.ofNat 8 (b.toNat / 2 + 128 * bitNat s.cpu.p.c), (·.getLsbD 0)),
       (.rorZpx z, .zpx z, 2, 6, fun b => BitVec.ofNat 8 (b.toNat / 2 + 128 * bitNat s.cpu.p.c), (·.getLsbD 0)),
       (.rorAbs a, .abs a, 3, 6, fun b => BitVec.ofNat 8 (b.toNat / 2 + 128 * bitNat s.cpu.p.c), (·.getLsbD 0)),
       (.rorAbx a, .abx a, 3, 7, fun b => BitVec.ofNat 8 (b.toNat / 2 + 128 * bitNat s.cpu.p.c), (·.getLsbD 0))] →
    let l := m.locate s
    let r := busRead l.after l.ea
    let t := busStore r.2 l.ea (f r.1)
    (writeRefused s l.ea = false →
      exec i s = .next (ended t
        { t.cpu with p := { znOf s.cpu.p (f r.1) with c := carry r.1 }, pc := past s.cpu len } cyc)) ∧
    (writeRefused s l.ea = true → exec i s = .fault (.badAccess l.ea .write r.2))

/-- 45_incdec.md R222 to R225: INX, INY, DEX and DEY wrap in a Byte, set Z and N, 2 cycles. -/
def Obligations.IncDecRegisterResults : Prop :=
  ∀ s : State,
    let c := s.cpu
    exec .inx s = .next (ended s { c with x := c.x + 1#8, p := znOf c.p (c.x + 1#8), pc := past c 1 } 2) ∧
    exec .iny s = .next (ended s { c with y := c.y + 1#8, p := znOf c.p (c.y + 1#8), pc := past c 1 } 2) ∧
    exec .dex s = .next (ended s { c with x := c.x - 1#8, p := znOf c.p (c.x - 1#8), pc := past c 1 } 2) ∧
    exec .dey s = .next (ended s { c with y := c.y - 1#8, p := znOf c.p (c.y - 1#8), pc := past c 1 } 2)

/-- 46_shift_rotate.md R230 to R233: the accumulator forms, in integers. -/
def Obligations.ShiftAccumulatorResults : Prop :=
  ∀ s : State,
    let c := s.cpu
    let shifted (r : Byte) (carry : Bool) : Result :=
      .next (ended s { c with a := r, p := { znOf c.p r with c := carry }, pc := past c 1 } 2)
    exec .aslAcc s = shifted (BitVec.ofNat 8 (2 * c.a.toNat)) (c.a.getLsbD 7) ∧
    exec .lsrAcc s = shifted (BitVec.ofNat 8 (c.a.toNat / 2)) (c.a.getLsbD 0) ∧
    exec .rolAcc s = shifted (BitVec.ofNat 8 (2 * c.a.toNat + bitNat c.p.c)) (c.a.getLsbD 7) ∧
    exec .rorAcc s = shifted (BitVec.ofNat 8 (c.a.toNat / 2 + 128 * bitNat c.p.c)) (c.a.getLsbD 0)

/-- 47_jump_branch.md R240, R241: JMP; the indirect form takes the high byte from the pointer's page. -/
def Obligations.JumpResults : Prop :=
  ∀ (s : State) (a : Word),
    exec (.jmpAbs a) s = .next (ended s { s.cpu with pc := a } 3) ∧
    (let lo := busRead s a
     let hi := busRead lo.2 (BitVec.ofNat 16 (a.toNat / 256 * 256 + (a.toNat + 1) % 256))
     exec (.jmpInd a) s = .next (ended hi.2 { s.cpu with pc := hi.1 ++ lo.1 } 5))

/-- 47_jump_branch.md R242, R243: JSR pushes the address of its last byte, high byte first; RTS pulls
and adds 1; so RTS after JSR goes on at the byte after the JSR with every other register as before. -/
def Obligations.SubroutineResults : Prop :=
  ∀ (s : State) (a : Word),
    let c := s.cpu
    let ret := c.pc + 2#16
    let lo := Cells.read s.ram (0x0100 + (c.sp + 1#8).toNat)
    let hi := Cells.read s.ram (0x0100 + (c.sp + 2#8).toNat)
    exec (.jsr a) s = .next
      { s with ram := Cells.write (Cells.write s.ram (0x0100 + c.sp.toNat) (ret.extractLsb' 8 8))
                 (0x0100 + (c.sp - 1#8).toNat) (ret.extractLsb' 0 8)
               dataBus := ret.extractLsb' 0 8
               cpu := { c with sp := c.sp - 2#8, pc := a }
               cyc := 6 } ∧
    exec .rts s = .next
      { s with dataBus := hi, cpu := { c with sp := c.sp + 2#8, pc := (hi ++ lo) + 1#16 }, cyc := 6 } ∧
    ∀ t u, exec (.jsr a) s = .next t → exec .rts t = .next u → u.cpu = { c with pc := c.pc + 3#16 }

/-- 47_jump_branch.md R244 to R252: the eight branches: taken, PC moves by the signed displacement in
3 cycles, or 4 into another page; not taken, PC passes the branch in 2; nothing else changes. -/
def Obligations.BranchResults : Prop :=
  ∀ (s : State) (d : Byte) (i : Instr) (cond : Bool),
    let p := s.cpu.p
    (i, cond) ∈ [(Instr.bcc d, !p.c), (.bcs d, p.c), (.beq d, p.z), (.bne d, !p.z), (.bmi d, p.n), (.bpl d, !p.n),
                 (.bvc d, !p.v), (.bvs d, p.v)] →
    let next := s.cpu.pc + 2#16
    let target := BitVec.ofInt 16 (next.toNat + d.toInt)
    exec i s = .next (
      if cond then
        ended s { s.cpu with pc := target } (if target.toNat / 256 ≠ next.toNat / 256 then 4 else 3)
      else ended s { s.cpu with pc := next } 2)

/-- 48_flag_ops.md R260 to R266 and 49_system.md R272: one flag changes, or none for NOP; PC + 1,
2 cycles; nothing else. -/
def Obligations.FlagInstructions : Prop :=
  ∀ (s : State) (i : Instr) (p : Flags),
    (i, p) ∈
      [(Instr.clc, { s.cpu.p with c := false }), (.sec, { s.cpu.p with c := true }),
       (.cli, { s.cpu.p with i := false }), (.sei, { s.cpu.p with i := true }),
       (.cld, { s.cpu.p with d := false }), (.sed, { s.cpu.p with d := true }),
       (.clv, { s.cpu.p with v := false }), (.nop, s.cpu.p)] →
    exec i s = .next (ended s { s.cpu with p := p, pc := past s.cpu 1 } 2)

/-! ### Frames -/

/-- 40_load_store.md R176, 20_memory.md R100: an instruction that stores nothing leaves every byte of
every memory and every device register but those a read changes: for a reading instruction, those that one
read of its effective address may change; one that reads nothing leaves everything but the CPU registers. -/
def Obligations.NothingStoredFrame : Prop :=
  ∀ (i : Instr) (s t : State), exec i s = .next t →
    ((∃ o, shapeOf i = .reads o) ∨ shapeOf i ∈ [Shape.accumulator, .registers, .pulls, .jumps, .branches] →
      NothingStored s t ∧ t.cpu.cycles = s.cpu.cycles ∧ t.cpu.nmiPending = s.cpu.nmiPending) ∧
    (∀ v, shapeOf i = .reads (.imm v) → t = ended s t.cpu t.cyc) ∧
    (∀ m, shapeOf i = .reads (.mem m) →
      let l := m.locate s
      let r := (busRead l.after l.ea).2
      l.after = { s with dataBus := l.after.dataBus } ∧ ReadFrame l.after r l.ea ∧ t = ended r t.cpu t.cyc) ∧
    (shapeOf i ∈ [Shape.accumulator, .registers, .branches] → t = ended s t.cpu t.cyc) ∧
    (shapeOf i = .pulls → t = { ended s t.cpu t.cyc with dataBus := t.dataBus })

/-- 40_load_store.md R173 to R176, 20_memory.md R90: a store's pointer reads change the bus latch alone, and
the rest is what one write to its effective address may change: every other byte of every memory reads as
before, every register that address does not name stays, MMC3's counter moves only where the write reaches
the pattern tables or starts an OAM DMA. -/
def Obligations.StoreFrameHolds : Prop :=
  ∀ (i : Instr) (m : MemMode) (s t : State), shapeOf i = .stores m → exec i s = .next t →
    let l := m.locate s
    l.after = { s with dataBus := l.after.dataBus } ∧
    ∃ u, StoreFrame l.after u l.ea ∧ t = ended u { u.cpu with pc := past s.cpu m.length } t.cyc

/-- 20_memory.md R101, 40_load_store.md R176: a read-modify-write instruction's pointer reads change the bus
latch alone; the rest is what one read of its effective address may change, what one write to it may change,
and the flags. -/
def Obligations.ModifyFrameHolds : Prop :=
  ∀ (i : Instr) (m : MemMode) (s t : State), shapeOf i = .modifies m → exec i s = .next t →
    let l := m.locate s
    let r := (busRead l.after l.ea).2
    l.after = { s with dataBus := l.after.dataBus } ∧ ReadFrame l.after r l.ea ∧
    ∃ u, StoreFrame r u l.ea ∧
      t = ended u { u.cpu with p := { t.cpu.p with i := s.cpu.p.i, d := s.cpu.p.d, v := s.cpu.p.v }
                               pc := past s.cpu m.length } t.cyc

/-- 42_stack.md R190, R191, 47_jump_branch.md R242, 49_system.md R270: PHA, PHP, JSR and BRK store only the
bytes they push; every other byte of RAM reads as before, nothing outside RAM changes but the bus latch
and the CPU registers. -/
def Obligations.PushFrameHolds : Prop :=
  ∀ (i : Instr) (s t : State) (a : Word) (n : Nat),
    (i, n) ∈ [(Instr.pha, 1), (.php, 1), (.jsr a, 2), (.brk, 3)] → exec i s = .next t →
    t = { ended s t.cpu t.cyc with ram := t.ram, dataBus := t.dataBus } ∧
    t.cpu.sp = s.cpu.sp - BitVec.ofNat 8 n ∧
    ∀ k, (∀ j < n, k ≠ 0x0100 + (s.cpu.sp - BitVec.ofNat 8 j).toNat) → Cells.read t.ram k = Cells.read s.ram k

/-- 10_state.md R21, R22, R27: an instruction that changes a register or a flag is one the rule lists as
its writer; no instruction writes `cycles`, and only a store can change the NMI latch (through PPUCTRL,
60_exceptions.md R313). -/
def Obligations.RegisterAndFlagWriters : Prop :=
  ∀ (i : Instr) (s t : State), exec i s = .next t →
    let m := mnemonicOf i
    (t.cpu.a ≠ s.cpu.a → m ∈ writersA ∨ shapeOf i = .accumulator) ∧
    (t.cpu.x ≠ s.cpu.x → m ∈ writersX) ∧
    (t.cpu.y ≠ s.cpu.y → m ∈ writersY) ∧
    (t.cpu.sp ≠ s.cpu.sp → m ∈ writersSp) ∧
    (t.cpu.p.c ≠ s.cpu.p.c → m ∈ writersC) ∧
    (t.cpu.p.z ≠ s.cpu.p.z → m ∈ writersZN) ∧
    (t.cpu.p.n ≠ s.cpu.p.n → m ∈ writersZN) ∧
    (t.cpu.p.i ≠ s.cpu.p.i → m ∈ writersI) ∧
    (t.cpu.p.d ≠ s.cpu.p.d → m ∈ writersD) ∧
    (t.cpu.p.v ≠ s.cpu.p.v → m ∈ writersV) ∧
    t.cpu.cycles = s.cpu.cycles ∧
    (t.cpu.nmiPending ≠ s.cpu.nmiPending → ∃ k, shapeOf i = .stores k ∨ shapeOf i = .modifies k)

/-! ### Completion and stops -/

/-- 60_exceptions.md R304, R302: every instruction answers a next state unless the one write it makes is
refused; none is refused while STRICT_MAPPER_ACCESS is false. -/
def Obligations.EveryInstructionCompletes : Prop :=
  ∀ (i : Instr) (s : State),
    (∀ m, shapeOf i = .stores m ∨ shapeOf i = .modifies m → writeRefused s (m.locate s).ea = false) →
    ∃ t, exec i s = .next t

/-- 60_exceptions.md R301 to R304: a step never ends in a refusal, and the only faults are a decode error of
an opcode outside the table and outside UNOFFICIAL_NOPS, and a bad access by a write without meaning while
STRICT_MAPPER_ACCESS. -/
def Obligations.StopsAreFaultsOfTwoKinds : Prop :=
  ∀ s : State, (∀ r, step s ≠ .refused r) ∧ ∀ e, step s = .fault e →
    (∃ op left, e = .decodeError op s.cpu.pc left ∧ formOf op = none ∧
      s.params.unofficialNops.lookup op = none) ∨
    (∃ a left, e = .badAccess a .write left ∧ s.params.strictMapperAccess = true ∧
      ((0x4020 ≤ a.toNat ∧ a.toNat < 0x6000) ∨ (0x8000 ≤ a.toNat ∧ s.mapper = .nrom)))

/-- 64_mappers.md R607, 60_exceptions.md R302: exactly the writes to 0x4020..0x5FFF on every mapper and to
0x8000..0xFFFF on NROM have no meaning; each faults with nothing changed while STRICT_MAPPER_ACCESS, and
else changes only the bus latch; a write to 0x6000..0x7FFF without PRG RAM is ignored. -/
def Obligations.RefusedWrites : Prop :=
  ∀ (s : State) (a : Word) (v : Byte),
    let meaningless := (0x4020 ≤ a.toNat ∧ a.toNat < 0x6000) ∨ (0x8000 ≤ a.toNat ∧ s.mapper = .nrom)
    (meaningless → s.params.strictMapperAccess = true → busWrite s a v = .fault (.badAccess a .write s)) ∧
    (meaningless → s.params.strictMapperAccess = false → busWrite s a v = .next { s with dataBus := v }) ∧
    (¬meaningless → busWrite s a v = .next (busStore s a v)) ∧
    (0x6000 ≤ a.toNat → a.toNat < 0x8000 → s.cart.prgRamSize = 0 →
      busWrite s a v = .next { s with dataBus := v })

/-- 10_state.md R28, R40, 61_bus_dma_controllers.md R350, R366, 63_apu.md R500, 64_mappers.md R600: a step
adds what it returns to `cycles`; the APU takes one step per cycle, which flips the parity; what stays
pending for the next step is `DMC_STALL` for each fetch, at most one per cycle; the cartridge's ROMs, the
parameters and which mapper the machine has stay. -/
def Obligations.StepAccounting : Prop :=
  ∀ s t : State, step s = .next t →
    t.cpu.cycles = s.cpu.cycles + t.cyc ∧
    t.apu.cycleParity = (s.apu.cycleParity ^^ decide (t.cyc % 2 = 1)) ∧
    (∃ n ≤ t.cyc, t.pendingStall = n * s.params.dmcStall) ∧
    t.cart = s.cart ∧ t.params = s.params ∧ t.mapper.kind = s.mapper.kind

/-! ### The CPU bus -/

/-- 20_memory.md R91, R92, R95, R111: RAM repeats every 0x0800 and the PPU's registers every 8, for reads and
writes alike; a read after a write of the same RAM or answering PRG RAM byte gives the byte written; every
access leaves its byte on the bus latch. -/
def Obligations.BusMirrorsAndLatch : Prop :=
  ∀ (s : State) (a b : Word) (v : Byte),
    ((a.toNat < 0x2000 ∧ b.toNat < 0x2000 ∧ a.toNat % 0x0800 = b.toNat % 0x0800) ∨
      (isPpu a ∧ isPpu b ∧ a.toNat % 8 = b.toNat % 8) →
      busRead s a = busRead s b ∧ busStore s a v = busStore s b v) ∧
    (a.toNat < 0x2000 → (busRead (busStore s a v) a).1 = v) ∧
    (0x6000 ≤ a.toNat → a.toNat < 0x8000 → prgRamWritable s = true → (busRead (busStore s a v) a).1 = v) ∧
    (busRead s a).2.dataBus = (busRead s a).1 ∧
    (a.toNat ≠ 0x4014 → (busStore s a v).dataBus = v)

/-- 20_memory.md R93, 63_apu.md R552, 64_mappers.md R606: a read of a write-only or unused address gives
the bus latch and changes nothing. -/
def Obligations.OpenBus : Prop :=
  ∀ (s : State) (a : Word),
    (∃ k ∈ [0, 1, 3, 5, 6], isPpuReg a k) ∨ (0x4000 ≤ a.toNat ∧ a.toNat ≤ 0x4014) ∨
      (0x4018 ≤ a.toNat ∧ a.toNat < 0x6000) ∨
      (0x6000 ≤ a.toNat ∧ a.toNat < 0x8000 ∧
        (s.cart.prgRamSize = 0 ∨ ∃ m, s.mapper = .mmc3 m ∧ m.prgRamProtect.getLsbD 7 = false)) →
    busRead s a = (s.dataBus, s)

/-- 61_bus_dma_controllers.md R360 to R362: a write of `v` to 0x4014 adds 513 stall cycles, 514 when
`cycles` is odd, and leaves OAMADDR; from a page of RAM or of the cartridge it copies the 256 bytes in
ascending order from OAMADDR on, and changes nothing else but the bus latch. -/
def Obligations.OamDma : Prop :=
  ∀ (s : State) (v : Byte),
    let t := busStore s 0x4014#16 v
    t.pendingStall = s.pendingStall + (if s.cpu.cycles % 2 = 1 then 514 else 513) ∧
    t.ppu.oamAddr = s.ppu.oamAddr ∧ t.cpu = s.cpu ∧
    (v.toNat < 0x20 ∨ 0x60 ≤ v.toNat →
      t = { s with dataBus := t.dataBus, pendingStall := t.pendingStall, ppu := { s.ppu with oam := t.ppu.oam } } ∧
      ∀ i < 256, Cells.read t.ppu.oam ((s.ppu.oamAddr.toNat + i) % 256) =
        (busRead { s with dataBus := v } (v ++ BitVec.ofNat 8 i)).1)

/-! ### Controllers -/

/-- 61_bus_dma_controllers.md R371 to R373: the strobe write, both data reads, and the serial protocol: after
a 1 then a 0 to 0x4016 with the strobe low before, eight reads give the snapshot's bits from bit 0 on, and
every further read gives 1. -/
def Obligations.ControllerProtocol : Prop :=
  ∀ (s : State) (v : Byte) (n : Nat),
    (let latched := s.pads.strobe = false ∧ v.getLsbD 0 = true
     busStore s 0x4016#16 v =
       { s with dataBus := v,
                pads := { s.pads with shift1 := if latched then s.pads.snapshot1 else s.pads.shift1,
                                      shift2 := if latched then s.pads.snapshot2 else s.pads.shift2,
                                      strobe := v.getLsbD 0 } }) ∧
    (let r := BitVec.ofNat 8 (s.dataBus.toNat / 32 * 32 + s.pads.shift1.toNat % 2)
     busRead s 0x4016#16 =
       (r, { s with dataBus := r,
                    pads := if s.pads.strobe then s.pads else
                      { s.pads with shift1 := BitVec.ofNat 8 (s.pads.shift1.toNat / 2 + 128) } })) ∧
    (let r := BitVec.ofNat 8 (s.dataBus.toNat / 32 * 32 + s.pads.shift2.toNat % 2)
     busRead s 0x4017#16 =
       (r, { s with dataBus := r,
                    pads := if s.pads.strobe then s.pads else
                      { s.pads with shift2 := BitVec.ofNat 8 (s.pads.shift2.toNat / 2 + 128) } })) ∧
    (s.pads.strobe = false →
      let ready := busStore (busStore s 0x4016#16 1#8) 0x4016#16 0#8
      let after := Nat.repeat (fun u => (busRead u 0x4016#16).2) n ready
      (busRead after 0x4016#16).1.getLsbD 0 = if n < 8 then s.pads.snapshot1.getLsbD n else true)

/-! ### PPU -/

/-- 62_ppu.md R410 to R415, 60_exceptions.md R311, R313: PPUCTRL, PPUMASK, PPUSTATUS, OAMADDR and OAMDATA,
through every mirror: the new values, the NMI latch, and nothing else; PPUSTATUS is not written.  OAMDATA as
read while the PPU is rendering is left out: the source calls it undefined (log 18). -/
def Obligations.PpuControlStatusAndOam : Prop :=
  ∀ (s : State) (a : Word) (b : Byte),
    (isPpuReg a 0 → busStore s a b =
      { s with
        dataBus := b
        ppu := { s.ppu with ctrl := b,
                            t := s.ppu.t.extractLsb' 12 3 ++ b.extractLsb' 0 2 ++ s.ppu.t.extractLsb' 0 10 }
        cpu := { s.cpu with
          nmiPending :=
            if b.getLsbD 7 = false then false
            else if s.ppu.ctrl.getLsbD 7 = false ∧ s.ppu.nmiOccurred = true then true
            else s.cpu.nmiPending } }) ∧
    (isPpuReg a 1 → busStore s a b = { s with dataBus := b, ppu := { s.ppu with mask := b } }) ∧
    (isPpuReg a 2 → busStore s a b = { s with dataBus := b }) ∧
    (isPpuReg a 3 → busStore s a b = { s with dataBus := b, ppu := { s.ppu with oamAddr := b } }) ∧
    (isPpuReg a 2 →
      let r := BitVec.ofNat 8 (128 * bitNat s.ppu.nmiOccurred + 64 * bitNat s.ppu.spriteZeroHit +
        32 * bitNat s.ppu.spriteOverflow + s.dataBus.toNat % 32)
      busRead s a = (r, { s with dataBus := r, ppu := { s.ppu with nmiOccurred := false, w := false } })) ∧
    (isPpuReg a 4 → busStore s a b =
      { s with dataBus := b, ppu := { s.ppu with oam := Cells.write s.ppu.oam s.ppu.oamAddr.toNat b,
                                                 oamAddr := s.ppu.oamAddr + 1#8 } }) ∧
    (isPpuReg a 4 →
      (s.ppu.mask.getLsbD 3 = false ∧ s.ppu.mask.getLsbD 4 = false) ∨ s.ppu.scanline < -1 ∨ 239 < s.ppu.scanline →
      let r := Cells.read s.ppu.oam s.ppu.oamAddr.toNat
      busRead s a = (r, { s with dataBus := r }))

/-- 62_ppu.md R416, R417: the two writes of PPUSCROLL and of PPUADDR, field by field, with the toggle they
share. -/
def Obligations.PpuScrollAndAddress : Prop :=
  ∀ (s : State) (a : Word) (b : Byte),
    let t := s.ppu.t
    (isPpuReg a 5 → s.ppu.w = false → busStore s a b =
      { s with dataBus := b, ppu := { s.ppu with t := t.extractLsb' 5 10 ++ b.extractLsb' 3 5,
                                                 x := b.extractLsb' 0 3, w := true } }) ∧
    (isPpuReg a 5 → s.ppu.w = true → busStore s a b =
      { s with dataBus := b,
               ppu := { s.ppu with t := b.extractLsb' 0 3 ++ t.extractLsb' 10 2 ++ b.extractLsb' 3 5 ++
                                          t.extractLsb' 0 5, w := false } }) ∧
    (isPpuReg a 6 → s.ppu.w = false → busStore s a b =
      { s with dataBus := b, ppu := { s.ppu with t := 0#1 ++ b.extractLsb' 0 6 ++ t.extractLsb' 0 8, w := true } }) ∧
    (isPpuReg a 6 → s.ppu.w = true → busStore s a b =
      { s with dataBus := b, ppu := { s.ppu with t := t.extractLsb' 8 7 ++ b, v := t.extractLsb' 8 7 ++ b,
                                                 w := false } })

/-- 62_ppu.md R418, R419: PPUDATA: a read below 0x3F00 gives the buffer and refills it, a palette read gives
the entry at once and buffers the nametable byte below; a write goes to PPU memory; `v` then moves by 1 or
32. -/
def Obligations.PpuDataAccess : Prop :=
  ∀ (s : State) (a : Word) (b : Byte), isPpuReg a 7 →
    let p := vramAddr s
    let next := s.ppu.v + (if s.ppu.ctrl.getLsbD 2 then 32#15 else 1#15)
    (p.toNat < 0x3F00 →
      let r := ppuRead s p
      busRead s a = (s.ppu.readBuffer,
        { r.2 with dataBus := s.ppu.readBuffer, ppu := { r.2.ppu with readBuffer := r.1, v := next } })) ∧
    (0x3F00 ≤ p.toNat →
      let r := ppuRead s (BitVec.ofNat 14 (p.toNat - 0x1000))
      let value := BitVec.ofNat 8 (s.dataBus.toNat / 64 * 64 + (paletteRead s.ppu p).toNat)
      busRead s a = (value, { r.2 with dataBus := value, ppu := { r.2.ppu with readBuffer := r.1, v := next } })) ∧
    (let t := ppuWrite { s with dataBus := b } p b
     busStore s a b = { t with ppu := { t.ppu with v := next } })

/-- 62_ppu.md R430 to R434, R436, R457, 64_mappers.md R601, R605, R608, R610, R620, R625, R630, R644, R658: the
PPU's memory, reads and writes whole.  Pattern tables: the byte of CHR ROM, or of CHR RAM where there is none, at
the mapper's banked offset, after the mapper is told A12; a write is stored in CHR RAM at that offset, or
discarded with CHR ROM.  Nametables: by the mirroring's table of banks.  Palette: six bits, with 0x10, 0x14, 0x18,
0x1C the same as 0x00, 0x04, 0x08, 0x0C, greyscale on reads.  A read after a write gives the byte. -/
def Obligations.PpuMemory : Prop :=
  ∀ (s : State) (a a' : VAddr) (b : Byte),
    (∀ i, [nametableBank .horizontal i, nametableBank .vertical i, nametableBank .singleA i,
        nametableBank .singleB i, nametableBank .fourScreen i] =
      [[0, 0, 1, 1].getD i 0, [0, 1, 0, 1].getD i 0, 0, 1, [0, 1, 2, 3].getD i 0] ∨ 4 ≤ i) ∧
    (a.toNat < 0x2000 →
      let size := if s.cart.chrLen = 0 then 8192 else s.cart.chrLen
      let off : Nat :=
        match s.mapper with
        | .nrom | .uxrom _ | .aorom _ _ => a.toNat
        | .cnrom bank => bank.toNat % (size / 8192) * 8192 + a.toNat
        | .mmc1 m =>
          let bank :=
            if m.control.getLsbD 4 then (if a.toNat < 0x1000 then m.chrBank0.toNat else m.chrBank1.toNat)
            else m.chrBank0.toNat / 2 * 2 + a.toNat / 0x1000
          bank % (size / 4096) * 4096 + a.toNat % 4096
        | .mmc3 m =>
          let window := (if m.bankSelect.getLsbD 7 then (a.toNat + 0x1000) % 0x2000 else a.toNat) / 1024
          let bank :=
            if window < 4 then (m.r.toList.getD (window / 2) 0#8).toNat / 2 * 2 + window % 2
            else (m.r.toList.getD (window - 2) 0#8).toNat
          bank % (size / 1024) * 1024 + a.toNat % 1024
      let told := onPpuA12 s.mapper (decide (0x1000 ≤ a.toNat))
      let seen := if s.cart.chrLen = 0 then Cells.read s.board.chrRam off else Cells.read s.cart.chrRom off
      ppuRead s a = (seen, { s with mapper := told }) ∧
      ppuWrite s a b =
        { s with
          mapper := told
          board := if s.cart.chrLen = 0 then { s.board with chrRam := Cells.write s.board.chrRam off b }
                   else s.board } ∧
      (ppuRead (ppuWrite s a b) a).1 = if s.cart.chrLen = 0 then b else seen) ∧
    (0x2000 ≤ a.toNat → a.toNat < 0x3F00 →
      let bank := nametableBank (mirroringOf s) (a.toNat / 1024 % 4)
      let o := a.toNat % 1024
      ppuRead s a = (if bank < 2 then Cells.read s.ppu.vram (1024 * bank + o)
                     else Cells.read s.board.cartVram (1024 * (bank - 2) + o), s) ∧
      ppuWrite s a b =
        (if bank < 2 then { s with ppu := { s.ppu with vram := Cells.write s.ppu.vram (1024 * bank + o) b } }
         else { s with board := { s.board with
           cartVram := Cells.write s.board.cartVram (1024 * (bank - 2) + o) b } }) ∧
      (ppuRead (ppuWrite s a b) a).1 = b) ∧
    (0x3F00 ≤ a.toNat →
      let index (x : VAddr) : Nat :=
        if x.toNat % 32 ∈ [16, 20, 24, 28] then x.toNat % 32 - 16 else x.toNat % 32
      let mono := s.ppu.mask.getLsbD 0
      ppuRead s a = ((Cells.read s.ppu.palette (index a) &&& (if mono then 0x30#6 else 0x3F#6)).setWidth 8, s) ∧
      ppuWrite s a b =
        { s with ppu := { s.ppu with palette := Cells.write s.ppu.palette (index a) (b.setWidth 6) } } ∧
      (0x3F00 ≤ a'.toNat → index a' = index a →
        (ppuRead (ppuWrite s a b) a').1 = b &&& (if mono then 0x30#8 else 0x3F#8)))

/-- 62_ppu.md R441, R442, R445, R446, 60_exceptions.md R311: one dot: the vertical blank flag set at (241, 1)
with the NMI edge, cleared at (-1, 1), kept at every other dot; the position's advance with the odd-frame
skip; the frame count at the wrap. -/
def Obligations.PictureTiming : Prop :=
  ∀ s : State, s.ppu.InRange →
    let p := s.ppu
    let t := ppuStep s
    t.ppu.nmiOccurred =
      (if p.scanline = 241 ∧ p.dot = 1 then true
       else if p.scanline = -1 ∧ p.dot = 1 then false else p.nmiOccurred) ∧
    t.cpu = { s.cpu with
      nmiPending := if p.scanline = 241 ∧ p.dot = 1 ∧ p.ctrl.getLsbD 7 = true ∧ p.nmiOccurred = false then true
      else s.cpu.nmiPending } ∧
    (p.scanline = -1 ∧ p.dot = 1 → t.ppu.spriteZeroHit = false ∧ t.ppu.spriteOverflow = false) ∧
    (let skip := p.scanline = -1 ∧ p.dot = 338 ∧ p.oddFrame = true ∧
       (p.mask.getLsbD 3 = true ∨ p.mask.getLsbD 4 = true)
     (t.ppu.scanline, t.ppu.dot) =
       (if skip then (p.scanline, 340)
        else if p.dot < 340 then (p.scanline, p.dot + 1)
        else if p.scanline < 260 then (p.scanline + 1, 0) else (-1, 0))) ∧
    (let wraps := p.scanline = 260 ∧ p.dot = 340
     t.ppu.frame = (if wraps then p.frame + 1 else p.frame) ∧
     t.ppu.oddFrame = (if wraps then !p.oddFrame else p.oddFrame))

/-- 62_ppu.md R453, R455, R458, R473: the pixel of a dot: which background and sprite pattern it has, which
of the two is shown, where it is stored; every other entry of the frame buffer stays; the sprite-0 hit. -/
def Obligations.PixelMultiplexer : Prop :=
  ∀ s : State,
    let p := s.ppu
    let t := (ppuStep s).ppu
    let px := p.dot - 1
    let on := 0 ≤ p.scanline ∧ p.scanline ≤ 239 ∧ 1 ≤ p.dot ∧ p.dot ≤ 256
    let x := p.x.toNat
    let bgPat :=
      if p.mask.getLsbD 3 = false ∨ (p.dot ≤ 8 ∧ p.mask.getLsbD 1 = false) then 0
      else 2 * bitNat (p.bgShiftHi.getLsbD (15 - x)) + bitNat (p.bgShiftLo.getLsbD (15 - x))
    let bgPal := 2 * bitNat (p.atShiftHi.getLsbD (7 - x)) + bitNat (p.atShiftLo.getLsbD (7 - x))
    let spPat (i : Fin 8) : Nat :=
      let q := p.sprites[i]
      let off := px - q.x.toNat
      let k := if q.attr.getLsbD 6 then off else 7 - off
      if q.x.toNat ≤ px ∧ off ≤ 7 then 2 * bitNat (q.patHi.getLsbD k) + bitNat (q.patLo.getLsbD k) else 0
    let first : Option (Fin 8) :=
      if p.mask.getLsbD 4 = true ∧ (8 < p.dot ∨ p.mask.getLsbD 2 = true) then
        (List.finRange 8).find? (fun i => decide (spPat i ≠ 0))
      else none
    let index :=
      match first with
      | none => if bgPat = 0 then 0 else 4 * bgPal + bgPat
      | some i =>
        if bgPat = 0 ∨ p.sprites[i].attr.getLsbD 5 = false then
          16 + 4 * (p.sprites[i].attr.toNat % 4) + spPat i
        else 4 * bgPal + bgPat
    (on → t.frameBuffer =
      Cells.write p.frameBuffer (256 * p.scanline.toNat + px)
        (p.mask.extractLsb' 5 3 ++ paletteRead p (BitVec.ofNat 14 (0x3F00 + index)))) ∧
    (on → t.spriteZeroHit = (p.spriteZeroHit || decide (first = some 0 ∧ p.spriteZeroLine = true ∧
      bgPat ≠ 0 ∧ 2 ≤ p.dot ∧ p.dot ≤ 255))) ∧
    (¬on → t.frameBuffer = p.frameBuffer)

/-- 70_reset_and_hazards.md R742, 62_ppu.md R440: with rendering disabled a frame is 262 * 341 = 89342 dots:
from any position they come back to it one frame later, with `v` where it was. -/
def Obligations.FrameLength : Prop :=
  ∀ s : State, s.ppu.InRange → s.ppu.mask.getLsbD 3 = false → s.ppu.mask.getLsbD 4 = false →
    let t := ppuRun 89342 s
    t.ppu.scanline = s.ppu.scanline ∧ t.ppu.dot = s.ppu.dot ∧ t.ppu.frame = s.ppu.frame + 1 ∧
    t.ppu.oddFrame = !s.ppu.oddFrame ∧ t.ppu.v = s.ppu.v ∧ t.mapper = s.mapper

/-! ### APU -/

/-- 63_apu.md R501, R506, R516, R524: one APU step: the frame counter's count and restart, the frame
interrupt, the length counters on the half frames, the triangle's linear counter on the quarter frames. -/
def Obligations.FrameSequencer : Prop :=
  ∀ s : State, s.apu.InRange →
    let f := s.apu.frame
    let n := f.fcCycle + 1
    let t := apuStep s
    let half := if f.fiveStep then n ∈ [7457, 22371] else n ∈ [14913, 29828]
    let quarter := if f.fiveStep then n ∈ [7457, 14913, 22371, 37281] else n ∈ [7457, 14913, 22371, 29828]
    let counted (length : Byte) (halt : Bool) : Byte :=
      if half ∧ halt = false ∧ length ≠ 0#8 then length - 1#8 else length
    t.apu.frame =
      { f with fcCycle := if n = (if f.fiveStep then 37282 else 29830) then 0 else n
               frameIrq := f.frameIrq || decide (f.fiveStep = false ∧ n = 29828 ∧ f.irqInhibit = false) } ∧
    t.apu.pulse1.length = counted s.apu.pulse1.length s.apu.pulse1.lengthHalt ∧
    t.apu.pulse2.length = counted s.apu.pulse2.length s.apu.pulse2.lengthHalt ∧
    t.apu.triangle.length = counted s.apu.triangle.length s.apu.triangle.control ∧
    t.apu.noise.length = counted s.apu.noise.length s.apu.noise.lengthHalt ∧
    (let r := s.apu.triangle
     t.apu.triangle.linear =
       (if quarter then
          if r.linearReload then r.linearReloadValue else if r.linear ≠ 0#7 then r.linear - 1#7 else r.linear
        else r.linear) ∧
     t.apu.triangle.linearReload = (if quarter ∧ r.control = false then false else r.linearReload))

/-- 63_apu.md R510 to R513, R520 to R522, R530 to R532, R540 to R543: a write to each of the channels'
registers, 0x4000 to 0x4013: the fields it sets, in integers, and nothing else but the bus latch.  That the
statements after the length load on the lines of R513, R522 and R532 are not under their `if` is the model's
choice (log 26). -/
def Obligations.ChannelRegisters : Prop :=
  ∀ (s : State) (b : Byte),
    let a := s.apu
    let written (a' : Apu) : State := { s with dataBus := b, apu := a' }
    let bits (lo n : Nat) : Nat := b.toNat / 2 ^ lo % 2 ^ n
    let lengths : List Nat :=
      [10, 254, 20, 2, 40, 4, 80, 6, 160, 8, 60, 10, 14, 12, 26, 14,
       12, 16, 24, 18, 48, 20, 96, 22, 192, 24, 72, 26, 16, 28, 32, 30]
    let loaded (enabled : Bool) (length : Byte) : Byte :=
      if enabled then BitVec.ofNat 8 (lengths.getD (b.toNat / 8) 0) else length
    let low (period : BitVec 11) : BitVec 11 := BitVec.ofNat 11 (period.toNat / 256 * 256 + b.toNat)
    let high (period : BitVec 11) : BitVec 11 := BitVec.ofNat 11 (b.toNat % 8 * 256 + period.toNat % 256)
    let pulse (p : Pulse) : List Pulse :=
      [{ p with duty := BitVec.ofNat 2 (bits 6 2), lengthHalt := b.getLsbD 5, constantVolume := b.getLsbD 4,
                volume := BitVec.ofNat 4 (bits 0 4) },
       { p with sweepEnabled := b.getLsbD 7, sweepPeriod := BitVec.ofNat 3 (bits 4 3), sweepNegate := b.getLsbD 3,
                sweepShift := BitVec.ofNat 3 (bits 0 3), sweepReload := true },
       { p with timerPeriod := low p.timerPeriod },
       { p with timerPeriod := high p.timerPeriod, length := loaded p.enabled p.length, dutyStep := 0#3,
                env := { p.env with start := true } }]
    let r := a.triangle
    let n := a.noise
    let d := a.dmc
    [0x4000#16, 0x4001#16, 0x4002#16, 0x4003#16].map (busStore s · b) =
      (pulse a.pulse1).map (fun p => written { a with pulse1 := p }) ∧
    [0x4004#16, 0x4005#16, 0x4006#16, 0x4007#16].map (busStore s · b) =
      (pulse a.pulse2).map (fun p => written { a with pulse2 := p }) ∧
    [0x4008#16, 0x4009#16, 0x400A#16, 0x400B#16].map (busStore s · b) =
      [{ r with control := b.getLsbD 7, linearReloadValue := BitVec.ofNat 7 (bits 0 7) },
       r,
       { r with timerPeriod := low r.timerPeriod },
       { r with timerPeriod := high r.timerPeriod, length := loaded r.enabled r.length,
                linearReload := true }].map (fun r => written { a with triangle := r }) ∧
    [0x400C#16, 0x400D#16, 0x400E#16, 0x400F#16].map (busStore s · b) =
      [{ n with lengthHalt := b.getLsbD 5, constantVolume := b.getLsbD 4, volume := BitVec.ofNat 4 (bits 0 4) },
       n,
       { n with mode := b.getLsbD 7, periodIndex := BitVec.ofNat 4 (bits 0 4) },
       { n with length := loaded n.enabled n.length,
                env := { n.env with start := true } }].map (fun n => written { a with noise := n }) ∧
    [0x4010#16, 0x4011#16, 0x4012#16, 0x4013#16].map (busStore s · b) =
      [{ d with irqEnable := b.getLsbD 7, loop := b.getLsbD 6, rateIndex := BitVec.ofNat 4 (bits 0 4),
                irqFlag := d.irqFlag && b.getLsbD 7 },
       { d with output := BitVec.ofNat 7 (bits 0 7) },
       { d with sampleAddr := BitVec.ofNat 16 (0xC000 + 64 * b.toNat) },
       { d with sampleLen := BitVec.ofNat 12 (16 * b.toNat + 1) }].map (fun d => written { a with dmc := d })

/-- 63_apu.md R503, R550, R551: reading 0x4015 gives the status byte and clears the frame interrupt alone;
writing it enables channels, clears the lengths of disabled ones and the DMC interrupt, and starts or
stops the sample; writing 0x4017 sets the mode, restarts the sequence and may clear the interrupt. -/
def Obligations.ApuStatus : Prop :=
  ∀ (s : State) (b : Byte),
    let a := s.apu
    let kept (on : Bool) (length : Byte) : Byte := if on then length else 0#8
    (let r := BitVec.ofNat 8 (128 * bitNat a.dmc.irqFlag + 64 * bitNat a.frame.frameIrq +
       32 * bitNat (s.dataBus.getLsbD 5) + 16 * bitNat (decide (a.dmc.bytesRemaining ≠ 0#12)) +
       8 * bitNat (decide (a.noise.length ≠ 0#8)) + 4 * bitNat (decide (a.triangle.length ≠ 0#8)) +
       2 * bitNat (decide (a.pulse2.length ≠ 0#8)) + bitNat (decide (a.pulse1.length ≠ 0#8)))
     busRead s 0x4015#16 =
       (r, { s with dataBus := r, apu := { a with frame := { a.frame with frameIrq := false } } })) ∧
    (let restart := b.getLsbD 4 = true ∧ a.dmc.bytesRemaining = 0#12
     busStore s 0x4015#16 b =
       { s with
         dataBus := b
         apu := { a with
           pulse1 := { a.pulse1 with enabled := b.getLsbD 0, length := kept (b.getLsbD 0) a.pulse1.length }
           pulse2 := { a.pulse2 with enabled := b.getLsbD 1, length := kept (b.getLsbD 1) a.pulse2.length }
           triangle := { a.triangle with enabled := b.getLsbD 2, length := kept (b.getLsbD 2) a.triangle.length }
           noise := { a.noise with enabled := b.getLsbD 3, length := kept (b.getLsbD 3) a.noise.length }
           dmc := { a.dmc with
             irqFlag := false
             curAddr := if restart then a.dmc.sampleAddr else a.dmc.curAddr
             bytesRemaining := if b.getLsbD 4 = false then 0#12
                               else if restart then a.dmc.sampleLen else a.dmc.bytesRemaining } } }) ∧
    (let t := busStore s 0x4017#16 b
     t.apu.frame = { fiveStep := b.getLsbD 7, irqInhibit := b.getLsbD 6, fcCycle := 0,
                     frameIrq := a.frame.frameIrq && !b.getLsbD 6 } ∧
     t.apu.dmc = a.dmc ∧
     (b.getLsbD 7 = false → t = { s with dataBus := b, apu := { a with frame := t.apu.frame } }) ∧
     (b.getLsbD 7 = true → t = { s with dataBus := b, apu := { a.quarter.half with frame := t.apu.frame } }))

/-- 63_apu.md R545, R547, 61_bus_dma_controllers.md R366: the DMC's memory reader: with the buffer empty and
bytes left it reads one byte of PRG ROM through the bus and adds `DMC_STALL`; the address wraps from
0xFFFF to 0x8000; the last byte restarts a looping sample or raises the interrupt; else nothing happens. -/
def Obligations.DmcFetch : Prop :=
  ∀ s : State, s.apu.InRange →
    let d := s.apu.dmc
    let b := prgByte s d.curAddr
    let left := d.bytesRemaining - 1#12
    let lastByte := left = 0#12
    (d.bufferFull = true ∨ d.bytesRemaining = 0#12 → dmcReader s = s) ∧
    (d.bufferFull = false → d.bytesRemaining ≠ 0#12 → dmcReader s =
      { s with
        dataBus := b
        pendingStall := s.pendingStall + s.params.dmcStall
        apu := { s.apu with dmc := { d with
          buffer := b
          bufferFull := true
          curAddr := if lastByte ∧ d.loop = true then d.sampleAddr
                     else if d.curAddr = 0xFFFF#16 then 0x8000#16 else d.curAddr + 1#16
          bytesRemaining := if lastByte ∧ d.loop = true then d.sampleLen else left
          irqFlag := d.irqFlag || decide (lastByte ∧ d.loop = false ∧ d.irqEnable = true) } } })

/-! ### Mappers -/

/-- 64_mappers.md R620, R625, R630, R640, R655 to R664: a write to 0x8000..0xFFFF changes only the mapper's
registers and the bus latch; the new registers of each mapper; MMC1's five writes load a register with
their bits, the first into bit 0. -/
def Obligations.MapperRegisters : Prop :=
  ∀ (s : State) (a : Word) (b : Byte), 0x8000 ≤ a.toNat →
    let t := busStore s a b
    let load (m : Mmc1) (v : BitVec 5) : Mmc1 :=
      let m := { m with shift := 0#5, writeCount := 0 }
      if a.toNat < 0xA000 then { m with control := v }
      else if a.toNat < 0xC000 then { m with chrBank0 := v }
      else if a.toNat < 0xE000 then { m with chrBank1 := v }
      else { m with prgBank := v }
    t = { s with dataBus := b, mapper := t.mapper } ∧
    (s.mapper = .nrom → t.mapper = .nrom) ∧
    (∀ k, s.mapper = .uxrom k → t.mapper = .uxrom b) ∧
    (∀ k, s.mapper = .cnrom k → t.mapper = .cnrom b) ∧
    (∀ k c, s.mapper = .aorom k c → t.mapper = .aorom (b.extractLsb' 0 3) (b.getLsbD 4)) ∧
    (∀ m, s.mapper = .mmc1 m → m.writeCount ≤ 4 →
      let v := m.shift ||| ((b.extractLsb' 0 1).setWidth 5 <<< m.writeCount)
      t.mapper = .mmc1 (
        if b.getLsbD 7 = true then { m with shift := 0#5, writeCount := 0, control := m.control ||| 0x0C#5 }
        else if m.writeCount < 4 then { m with shift := v, writeCount := m.writeCount + 1 }
        else load m v)) ∧
    (∀ (m : Mmc1) (v : BitVec 5), s.mapper = .mmc1 m → m.shift = 0#5 → m.writeCount = 0 →
      ((List.range 5).foldl (fun u k => busStore u a (BitVec.ofNat 8 ((v >>> k) &&& 1#5).toNat)) s).mapper = .mmc1 (load m v)) ∧
    (∀ m, s.mapper = .mmc3 m → ∃ m', t.mapper = .mmc3 m' ∧
      (∀ j (h : j < 8), m'.r[j] = if a.toNat < 0xA000 ∧ a.toNat % 2 = 1 ∧ m.bankSelect.toNat % 8 = j then b else m.r[j]) ∧
      m' = { (
        if a.toNat < 0xA000 then (if a.toNat % 2 = 0 then { m with bankSelect := b } else m)
        else if a.toNat < 0xC000 then
          (if a.toNat % 2 = 0 then { m with mirroring := b.getLsbD 0 } else { m with prgRamProtect := b })
        else if a.toNat < 0xE000 then
          (if a.toNat % 2 = 0 then { m with irqLatch := b } else { m with irqReload := true })
        else
          (if a.toNat % 2 = 0 then { m with irqEnable := false, irqFlag := false }
           else { m with irqEnable := true })) with r := m'.r })

/-- 64_mappers.md R601, R610, R620, R625, R630, R642, R657: which byte of PRG ROM a read of 0x8000..0xFFFF
gives on each mapper; and the mirroring of R630, R641, R643, R660. -/
def Obligations.MapperWindows : Prop :=
  ∀ (s : State) (a : Word), 0x8000 ≤ a.toNat → s.cart.wf →
    let n16 := s.cart.prgLen / 16384
    let n8 := s.cart.prgLen / 8192
    let rom := Cells.read s.cart.prgRom
    let seen := (busRead s a).1
    let o16 := a.toNat % 16384
    let o8 := a.toNat % 8192
    (s.mapper = .nrom → seen = rom ((a.toNat - 0x8000) % s.cart.prgLen) ∧ mirroringOf s = s.cart.mirroring) ∧
    (∀ k, s.mapper = .uxrom k →
      seen = rom (16384 * (if a.toNat < 0xC000 then k.toNat % n16 else n16 - 1) + o16) ∧
      mirroringOf s = s.cart.mirroring) ∧
    (∀ k, s.mapper = .cnrom k → seen = rom ((a.toNat - 0x8000) % s.cart.prgLen) ∧
      mirroringOf s = s.cart.mirroring) ∧
    (∀ k c, s.mapper = .aorom k c →
      seen = rom ((k.toNat % max (s.cart.prgLen / 32768) 1 * 32768 + (a.toNat - 0x8000)) % s.cart.prgLen) ∧
      mirroringOf s = if c then .singleB else .singleA) ∧
    (∀ m, s.mapper = .mmc1 m →
      let p := m.prgBank.toNat % 16
      let mode := m.control.toNat / 4 % 4
      let bank :=
        if mode < 2 then 2 * (p / 2) + (if a.toNat < 0xC000 then 0 else 1)
        else if mode = 2 then (if a.toNat < 0xC000 then 0 else p)
        else if a.toNat < 0xC000 then p else n16 - 1
      seen = rom (16384 * (bank % n16) + o16) ∧
      mirroringOf s = [Mirroring.singleA, .singleB, .vertical, .horizontal].getD (m.control.toNat % 4) .horizontal) ∧
    (∀ m, s.mapper = .mmc3 m →
      let swapped := m.bankSelect.getLsbD 6
      let bank :=
        if a.toNat < 0xA000 then (if swapped then n8 - 2 else (m.r[6]).toNat)
        else if a.toNat < 0xC000 then (m.r[7]).toNat
        else if a.toNat < 0xE000 then (if swapped then (m.r[6]).toNat else n8 - 2)
        else n8 - 1
      seen = rom (8192 * (bank % n8) + o8) ∧
      mirroringOf s = if s.cart.mirroring = .fourScreen then .fourScreen
                      else if m.mirroring then .horizontal else .vertical)

/-- 64_mappers.md R662, R665, 62_ppu.md R431, R436: every pattern access, read or write, tells MMC3 the level of
A12, and no other access does; a rising edge reloads or decrements the counter and may raise the interrupt;
with the reload requested, the interrupt enabled and the flag clear, `latch + 1` edges raise it and fewer do
not. -/
def Obligations.ScanlineCounter : Prop :=
  ∀ (s : State) (m : Mmc3), s.mapper = .mmc3 m →
    (∀ a : VAddr, a.toNat < 0x2000 → (ppuRead s a).2 =
      { s with mapper := .mmc3 (
          let rising := m.lastA12 = false ∧ 0x1000 ≤ a.toNat
          let counter := if m.irqCounter = 0#8 ∨ m.irqReload = true then m.irqLatch else m.irqCounter - 1#8
          if rising then
            { m with irqCounter := counter, irqReload := false, lastA12 := true,
                     irqFlag := m.irqFlag || decide (counter = 0#8 ∧ m.irqEnable = true) }
          else { m with lastA12 := decide (0x1000 ≤ a.toNat) }) }) ∧
    (∀ (a : VAddr) (b : Byte),
      (ppuWrite s a b).mapper = (ppuRead s a).2.mapper ∧
      (0x2000 ≤ a.toNat → (ppuRead s a).2.mapper = s.mapper)) ∧
    (m.irqReload = true → m.irqEnable = true → m.irqFlag = false → m.lastA12 = false →
      ∀ n ≤ m.irqLatch.toNat + 1,
        let edge (u : State) : State := (ppuRead (ppuRead u 0x1000#14).2 0x0000#14).2
        irqPending (Nat.repeat edge n s).mapper = decide (n = m.irqLatch.toNat + 1))

/-! ### Reset and the invariant -/

/-- 70_reset_and_hazards.md R700 to R703: power-on of a legal cartridge and legal parameters, whole; the
runtime reset, whole: the CPU's registers, the PPU's and the APU's columns, and the memories, the mapper, the
pads and the pending stall it keeps.  That it keeps the pending stall (92_eei_decisions.md D38) is the reading
of log 10; State.reset's open values are the model's choice (log 1, 3, 4). -/
def Obligations.PowerOnAndReset : Prop :=
  (∀ (c : Cartridge) (k : Params) (o : PowerOnValues) (s : State), powerOn c k o = some s ↔
    (c.wf ∧ k.wf) ∧
    s = { State.built c k o with
      dataBus := prgByte s 0xFFFD#16
      cpu := { a := o.a, x := o.x, y := o.y, sp := 0xFD#8, pc := vectorWord s 0xFFFC#16,
               p := { c := o.c, z := o.z, i := true, d := o.d, v := o.v, n := o.n },
               cycles := 7, nmiPending := false } }) ∧
  powerOn resetCartridge {} {} = some State.reset ∧
  ∀ s : State,
    runtimeReset s =
      { s with
        dataBus := prgByte s 0xFFFD#16
        ppu := s.ppu.runtimeReset
        apu := s.apu.runtimeReset
        cpu := { s.cpu with sp := 0xFD#8, pc := vectorWord s 0xFFFC#16, p := { s.cpu.p with i := true },
                            cycles := s.cpu.cycles + 7, nmiPending := false } } ∧
    (let p := (runtimeReset s).ppu
     p.ctrl = 0#8 ∧ p.mask = 0#8 ∧ p.t = 0#15 ∧ p.x = 0#3 ∧ p.w = false ∧ p.readBuffer = 0#8 ∧
     p.scanline = 0 ∧ p.dot = 0 ∧ p.oddFrame = false ∧ p.v = s.ppu.v ∧ p.oamAddr = s.ppu.oamAddr ∧
     p.nmiOccurred = s.ppu.nmiOccurred ∧ p.oam = s.ppu.oam ∧ p.vram = s.ppu.vram ∧
     p.palette = s.ppu.palette ∧ p.frame = s.ppu.frame) ∧
    (let a := (runtimeReset s).apu
     a.frame = { s.apu.frame with frameIrq := false, fcCycle := 0 } ∧ a.pulse1.length = 0#8 ∧
     a.pulse2.length = 0#8 ∧ a.triangle.length = 0#8 ∧ a.noise.length = 0#8 ∧
     a.dmc.bytesRemaining = 0#12 ∧ a.dmc.irqFlag = false ∧ a.cycleParity = false)

/-- 10_state.md R33, R38 to R41: the state after power-on has the invariant, State.reset among them, when the
open memory contents are canonical; and so has the state after a runtime reset.  State.reset's own values
where the spec leaves one open are the model's choice (log 1, 3, 4). -/
def Obligations.InvariantAtReset : Prop :=
  State.reset.Inv ∧
  (∀ (c : Cartridge) (k : Params) (o : PowerOnValues) (s : State), powerOn c k o = some s →
    Memory.wf 2048 o.ram → Memory.wf 2048 o.vram → Memory.wf 256 o.oam → Cells.wf 32 o.palette →
    Memory.wf 8192 o.prgRam → Memory.wf 8192 o.chrRam → Memory.wf 2048 o.cartVram → s.Inv) ∧
  ∀ s : State, s.Inv → (runtimeReset s).Inv

/-- 10_state.md R33, R38 to R41: every step keeps the invariant: every memory canonical and inside its
length, the PPU's position on the picture, the APU's counters in range and the noise register never 0
(63_apu.md R533), MMC1's count at most 4, the mapper the cartridge's.  Of the DMC's address the invariant says
that it lies in 0x8000..0xFFFF while bytes remain, the reading of log 24 (DEDUCED): R545 says it without that
condition, but at power-on it is 0 (10_state.md R39). -/
def Obligations.InvariantPreserved : Prop :=
  ∀ s t : State, s.Inv → step s = .next t → t.Inv
end

