-- ==== Sys2Proof/Laws/Memory.lean ====
section
/-! SUPPORT. Laws of the arrays: read after write, the canonical form, extensionality. -/

namespace Sys2Proof

variable {w : Nat}

@[simp] theorem Cells.read_nil (k : Nat) : Cells.read ([] : Cells w) k = 0#w := rfl

theorem Cells.read_cons (j : Nat) (b : BitVec w) (rest : Cells w) (k : Nat) :
    Cells.read ((j, b) :: rest) k = if j = k then b else Cells.read rest k := rfl

theorem Cells.read_filter_same (m : Cells w) (k : Nat) :
    Cells.read (m.filter (fun c => c.1 != k)) k = 0#w := by
  induction m with
  | nil => rfl
  | cons c rest ih =>
    obtain ⟨j, b⟩ := c
    by_cases h : j = k <;> simp [h, Cells.read_cons, ih]

theorem Cells.read_filter_other (m : Cells w) {k j : Nat} (h : j ≠ k) :
    Cells.read (m.filter (fun c => c.1 != k)) j = Cells.read m j := by
  induction m with
  | nil => rfl
  | cons c rest ih =>
    obtain ⟨i, b⟩ := c
    by_cases hi : i = k
    · have : i ≠ j := by omega
      simp [hi, Cells.read_cons, ih]; omega
    · simp [hi, Cells.read_cons, ih]

theorem Cells.read_insert_same (m : Cells w) (k : Nat) (v : BitVec w) :
    Cells.read (Cells.insert m k v) k = v := by
  induction m with
  | nil => simp [Cells.insert, Cells.read_cons]
  | cons c rest ih =>
    obtain ⟨i, b⟩ := c
    unfold Cells.insert
    split
    · simp [Cells.read_cons]
    · split
      · simp [Cells.read_cons]
      · have : i ≠ k := by omega
        simp [Cells.read_cons, this, ih]

theorem Cells.read_insert_other (m : Cells w) {k j : Nat} (v : BitVec w) (h : j ≠ k) :
    Cells.read (Cells.insert m k v) j = Cells.read m j := by
  have h' : k ≠ j := Ne.symm h
  induction m with
  | nil => simp [Cells.insert, Cells.read_cons, h']
  | cons c rest ih =>
    obtain ⟨i, b⟩ := c
    unfold Cells.insert
    split
    · simp [Cells.read_cons, h']
    · split
      · rename_i hki; subst hki; simp [Cells.read_cons, h']
      · simp [Cells.read_cons, ih]

/-- A read after a write of the same entry gives what was written. -/
@[simp] theorem Cells.read_write_same (m : Cells w) (k : Nat) (v : BitVec w) :
    Cells.read (Cells.write m k v) k = v := by
  unfold Cells.write
  split
  · rename_i h; rw [Cells.read_filter_same, h]
  · exact Cells.read_insert_same m k v

/-- A write leaves every other entry alone. -/
theorem Cells.read_write_other (m : Cells w) {k j : Nat} (v : BitVec w) (h : j ≠ k) :
    Cells.read (Cells.write m k v) j = Cells.read m j := by
  unfold Cells.write
  split
  · exact Cells.read_filter_other m h
  · exact Cells.read_insert_other m v h

/-- A read after a write, in one equation. -/
theorem Cells.read_write (m : Cells w) (k j : Nat) (v : BitVec w) :
    Cells.read (Cells.write m k v) j = if j = k then v else Cells.read m j := by
  split
  · rename_i h; rw [h, Cells.read_write_same]
  · rename_i h; exact Cells.read_write_other m v h

theorem Cells.wf_nil (n : Nat) : Cells.wf n ([] : Cells w) := ⟨List.Pairwise.nil, by simp⟩

theorem Cells.mem_insert {m : Cells w} {k : Nat} {v : BitVec w} {c : Nat × BitVec w}
    (h : c ∈ Cells.insert m k v) : c = (k, v) ∨ c ∈ m := by
  induction m with
  | nil => simpa [Cells.insert] using h
  | cons d rest ih =>
    obtain ⟨i, b⟩ := d
    unfold Cells.insert at h
    split at h
    · simpa using h
    · split at h
      · rcases List.mem_cons.1 h with h | h
        · exact .inl h
        · exact .inr (List.mem_cons_of_mem _ h)
      · rcases List.mem_cons.1 h with h | h
        · exact .inr (h ▸ List.mem_cons_self)
        · exact (ih h).imp id (List.mem_cons_of_mem _)

theorem Cells.pairwise_insert {m : Cells w} (k : Nat) (v : BitVec w)
    (h : m.Pairwise (fun a b => a.1 < b.1)) :
    (Cells.insert m k v).Pairwise (fun a b => a.1 < b.1) := by
  induction m with
  | nil => simp [Cells.insert]
  | cons d rest ih =>
    obtain ⟨i, b⟩ := d
    have hr := List.pairwise_cons.1 h
    unfold Cells.insert
    split
    · rename_i hk
      refine List.pairwise_cons.2 ⟨fun c hc => ?_, h⟩
      rcases List.mem_cons.1 hc with rfl | hc
      · exact hk
      · exact lt_trans hk (hr.1 c hc)
    · split
      · rename_i hk; subst hk
        exact List.pairwise_cons.2 ⟨fun c hc => hr.1 c hc, hr.2⟩
      · refine List.pairwise_cons.2 ⟨fun c hc => ?_, ih hr.2⟩
        rcases Cells.mem_insert hc with rfl | hc
        · show i < k; omega
        · exact hr.1 c hc

/-- Every write inside the array keeps the canonical form. -/
theorem Cells.write_wf {n : Nat} {m : Cells w} {k : Nat} (v : BitVec w) (hk : k < n)
    (h : Cells.wf n m) : Cells.wf n (Cells.write m k v) := by
  unfold Cells.write
  split
  · exact ⟨h.1.sublist List.filter_sublist, fun c hc => h.2 c (List.mem_filter.1 hc).1⟩
  · rename_i hv
    refine ⟨Cells.pairwise_insert k v h.1, fun c hc => ?_⟩
    rcases Cells.mem_insert hc with rfl | hc
    · exact ⟨hv, hk⟩
    · exact h.2 c hc

theorem Cells.read_eq_zero_of_lt {m : Cells w} {k : Nat} (h : ∀ c ∈ m, k < c.1) :
    Cells.read m k = 0#w := by
  induction m with
  | nil => rfl
  | cons d rest ih =>
    obtain ⟨i, b⟩ := d
    have hi : k < i := h (i, b) List.mem_cons_self
    have : i ≠ k := by omega
    simp [Cells.read_cons, this, ih fun c hc => h c (List.mem_cons_of_mem _ hc)]

/-- Canonical arrays that read the same everywhere are the same list. -/
theorem Cells.ext_of_read {n n' : Nat} {m m' : Cells w} (h : Cells.wf n m) (h' : Cells.wf n' m')
    (hr : ∀ k, Cells.read m k = Cells.read m' k) : m = m' := by
  induction m generalizing m' with
  | nil =>
    cases m' with
    | nil => rfl
    | cons c rest =>
      have := hr c.1
      obtain ⟨i, b⟩ := c
      simp [Cells.read_cons] at this
      exact absurd this.symm (h'.2 (i, b) List.mem_cons_self).1
  | cons d rest ih =>
    obtain ⟨i, b⟩ := d
    have hb := (h.2 (i, b) List.mem_cons_self).1
    have hp := List.pairwise_cons.1 h.1
    cases m' with
    | nil =>
      have := hr i
      simp [Cells.read_cons] at this
      exact absurd this hb
    | cons d' rest' =>
      obtain ⟨i', b'⟩ := d'
      have hb' := (h'.2 (i', b') List.mem_cons_self).1
      have hp' := List.pairwise_cons.1 h'.1
      have e1 := hr i
      have e2 := hr i'
      simp only [Cells.read_cons] at e1 e2
      have hii : i = i' := by
        by_contra hne
        rcases Nat.lt_or_gt_of_ne hne with hlt | hlt
        · have hz : Cells.read rest' i = 0#w :=
            Cells.read_eq_zero_of_lt fun c hc => lt_trans hlt (hp'.1 c hc)
          simp [Ne.symm hne, hz] at e1
          exact hb e1
        · have hz : Cells.read rest i' = 0#w :=
            Cells.read_eq_zero_of_lt fun c hc => lt_trans hlt (hp.1 c hc)
          simp [hne, hz] at e2
          exact hb' e2.symm
      subst hii
      simp at e1
      subst e1
      congr 1
      refine ih ⟨hp.2, fun c hc => h.2 c (List.mem_cons_of_mem _ hc)⟩
        ⟨hp'.2, fun c hc => h'.2 c (List.mem_cons_of_mem _ hc)⟩ fun k => ?_
      by_cases hk : i = k
      · subst hk
        rw [Cells.read_eq_zero_of_lt fun c hc => hp.1 c hc, Cells.read_eq_zero_of_lt fun c hc => hp'.1 c hc]
      · have := hr k
        simpa [Cells.read_cons, hk] using this

end Sys2Proof
end

