-- ==== Sys2Proof/Laws/State.lean ====
section
/-! SUPPORT. What each named update leaves in each component: one lemma per component per update. -/

namespace Sys2Proof.Machine

/-! ### `setCpu` -/

@[simp] theorem State.setCpu_cpu (s : State) (c : Cpu) : (s.setCpu c).cpu = c := rfl
@[simp] theorem State.setCpu_ram (s : State) (c : Cpu) : (s.setCpu c).ram = s.ram := rfl
@[simp] theorem State.setCpu_dataBus (s : State) (c : Cpu) : (s.setCpu c).dataBus = s.dataBus := rfl
@[simp] theorem State.setCpu_pendingStall (s : State) (c : Cpu) : (s.setCpu c).pendingStall = s.pendingStall := rfl
@[simp] theorem State.setCpu_pads (s : State) (c : Cpu) : (s.setCpu c).pads = s.pads := rfl
@[simp] theorem State.setCpu_ppu (s : State) (c : Cpu) : (s.setCpu c).ppu = s.ppu := rfl
@[simp] theorem State.setCpu_apu (s : State) (c : Cpu) : (s.setCpu c).apu = s.apu := rfl
@[simp] theorem State.setCpu_board (s : State) (c : Cpu) : (s.setCpu c).board = s.board := rfl
@[simp] theorem State.setCpu_mapper (s : State) (c : Cpu) : (s.setCpu c).mapper = s.mapper := rfl
@[simp] theorem State.setCpu_cart (s : State) (c : Cpu) : (s.setCpu c).cart = s.cart := rfl
@[simp] theorem State.setCpu_params (s : State) (c : Cpu) : (s.setCpu c).params = s.params := rfl
@[simp] theorem State.setCpu_cyc (s : State) (c : Cpu) : (s.setCpu c).cyc = s.cyc := rfl

/-! ### `setRam` -/

@[simp] theorem State.setRam_cpu (s : State) (m : Memory) : (s.setRam m).cpu = s.cpu := rfl
@[simp] theorem State.setRam_ram (s : State) (m : Memory) : (s.setRam m).ram = m := rfl
@[simp] theorem State.setRam_dataBus (s : State) (m : Memory) : (s.setRam m).dataBus = s.dataBus := rfl
@[simp] theorem State.setRam_pendingStall (s : State) (m : Memory) : (s.setRam m).pendingStall = s.pendingStall := rfl
@[simp] theorem State.setRam_pads (s : State) (m : Memory) : (s.setRam m).pads = s.pads := rfl
@[simp] theorem State.setRam_ppu (s : State) (m : Memory) : (s.setRam m).ppu = s.ppu := rfl
@[simp] theorem State.setRam_apu (s : State) (m : Memory) : (s.setRam m).apu = s.apu := rfl
@[simp] theorem State.setRam_board (s : State) (m : Memory) : (s.setRam m).board = s.board := rfl
@[simp] theorem State.setRam_mapper (s : State) (m : Memory) : (s.setRam m).mapper = s.mapper := rfl
@[simp] theorem State.setRam_cart (s : State) (m : Memory) : (s.setRam m).cart = s.cart := rfl
@[simp] theorem State.setRam_params (s : State) (m : Memory) : (s.setRam m).params = s.params := rfl
@[simp] theorem State.setRam_cyc (s : State) (m : Memory) : (s.setRam m).cyc = s.cyc := rfl

/-! ### `setDataBus` -/

@[simp] theorem State.setDataBus_cpu (s : State) (b : Byte) : (s.setDataBus b).cpu = s.cpu := rfl
@[simp] theorem State.setDataBus_ram (s : State) (b : Byte) : (s.setDataBus b).ram = s.ram := rfl
@[simp] theorem State.setDataBus_dataBus (s : State) (b : Byte) : (s.setDataBus b).dataBus = b := rfl
@[simp] theorem State.setDataBus_pendingStall (s : State) (b : Byte) : (s.setDataBus b).pendingStall = s.pendingStall := rfl
@[simp] theorem State.setDataBus_pads (s : State) (b : Byte) : (s.setDataBus b).pads = s.pads := rfl
@[simp] theorem State.setDataBus_ppu (s : State) (b : Byte) : (s.setDataBus b).ppu = s.ppu := rfl
@[simp] theorem State.setDataBus_apu (s : State) (b : Byte) : (s.setDataBus b).apu = s.apu := rfl
@[simp] theorem State.setDataBus_board (s : State) (b : Byte) : (s.setDataBus b).board = s.board := rfl
@[simp] theorem State.setDataBus_mapper (s : State) (b : Byte) : (s.setDataBus b).mapper = s.mapper := rfl
@[simp] theorem State.setDataBus_cart (s : State) (b : Byte) : (s.setDataBus b).cart = s.cart := rfl
@[simp] theorem State.setDataBus_params (s : State) (b : Byte) : (s.setDataBus b).params = s.params := rfl
@[simp] theorem State.setDataBus_cyc (s : State) (b : Byte) : (s.setDataBus b).cyc = s.cyc := rfl

/-! ### `setPendingStall` -/

@[simp] theorem State.setPendingStall_cpu (s : State) (n : Nat) : (s.setPendingStall n).cpu = s.cpu := rfl
@[simp] theorem State.setPendingStall_ram (s : State) (n : Nat) : (s.setPendingStall n).ram = s.ram := rfl
@[simp] theorem State.setPendingStall_dataBus (s : State) (n : Nat) : (s.setPendingStall n).dataBus = s.dataBus := rfl
@[simp] theorem State.setPendingStall_pendingStall (s : State) (n : Nat) : (s.setPendingStall n).pendingStall = n := rfl
@[simp] theorem State.setPendingStall_pads (s : State) (n : Nat) : (s.setPendingStall n).pads = s.pads := rfl
@[simp] theorem State.setPendingStall_ppu (s : State) (n : Nat) : (s.setPendingStall n).ppu = s.ppu := rfl
@[simp] theorem State.setPendingStall_apu (s : State) (n : Nat) : (s.setPendingStall n).apu = s.apu := rfl
@[simp] theorem State.setPendingStall_board (s : State) (n : Nat) : (s.setPendingStall n).board = s.board := rfl
@[simp] theorem State.setPendingStall_mapper (s : State) (n : Nat) : (s.setPendingStall n).mapper = s.mapper := rfl
@[simp] theorem State.setPendingStall_cart (s : State) (n : Nat) : (s.setPendingStall n).cart = s.cart := rfl
@[simp] theorem State.setPendingStall_params (s : State) (n : Nat) : (s.setPendingStall n).params = s.params := rfl
@[simp] theorem State.setPendingStall_cyc (s : State) (n : Nat) : (s.setPendingStall n).cyc = s.cyc := rfl

/-! ### `setPads` -/

@[simp] theorem State.setPads_cpu (s : State) (p : Pads) : (s.setPads p).cpu = s.cpu := rfl
@[simp] theorem State.setPads_ram (s : State) (p : Pads) : (s.setPads p).ram = s.ram := rfl
@[simp] theorem State.setPads_dataBus (s : State) (p : Pads) : (s.setPads p).dataBus = s.dataBus := rfl
@[simp] theorem State.setPads_pendingStall (s : State) (p : Pads) : (s.setPads p).pendingStall = s.pendingStall := rfl
@[simp] theorem State.setPads_pads (s : State) (p : Pads) : (s.setPads p).pads = p := rfl
@[simp] theorem State.setPads_ppu (s : State) (p : Pads) : (s.setPads p).ppu = s.ppu := rfl
@[simp] theorem State.setPads_apu (s : State) (p : Pads) : (s.setPads p).apu = s.apu := rfl
@[simp] theorem State.setPads_board (s : State) (p : Pads) : (s.setPads p).board = s.board := rfl
@[simp] theorem State.setPads_mapper (s : State) (p : Pads) : (s.setPads p).mapper = s.mapper := rfl
@[simp] theorem State.setPads_cart (s : State) (p : Pads) : (s.setPads p).cart = s.cart := rfl
@[simp] theorem State.setPads_params (s : State) (p : Pads) : (s.setPads p).params = s.params := rfl
@[simp] theorem State.setPads_cyc (s : State) (p : Pads) : (s.setPads p).cyc = s.cyc := rfl

/-! ### `setPpu` -/

@[simp] theorem State.setPpu_cpu (s : State) (p : Ppu) : (s.setPpu p).cpu = s.cpu := rfl
@[simp] theorem State.setPpu_ram (s : State) (p : Ppu) : (s.setPpu p).ram = s.ram := rfl
@[simp] theorem State.setPpu_dataBus (s : State) (p : Ppu) : (s.setPpu p).dataBus = s.dataBus := rfl
@[simp] theorem State.setPpu_pendingStall (s : State) (p : Ppu) : (s.setPpu p).pendingStall = s.pendingStall := rfl
@[simp] theorem State.setPpu_pads (s : State) (p : Ppu) : (s.setPpu p).pads = s.pads := rfl
@[simp] theorem State.setPpu_ppu (s : State) (p : Ppu) : (s.setPpu p).ppu = p := rfl
@[simp] theorem State.setPpu_apu (s : State) (p : Ppu) : (s.setPpu p).apu = s.apu := rfl
@[simp] theorem State.setPpu_board (s : State) (p : Ppu) : (s.setPpu p).board = s.board := rfl
@[simp] theorem State.setPpu_mapper (s : State) (p : Ppu) : (s.setPpu p).mapper = s.mapper := rfl
@[simp] theorem State.setPpu_cart (s : State) (p : Ppu) : (s.setPpu p).cart = s.cart := rfl
@[simp] theorem State.setPpu_params (s : State) (p : Ppu) : (s.setPpu p).params = s.params := rfl
@[simp] theorem State.setPpu_cyc (s : State) (p : Ppu) : (s.setPpu p).cyc = s.cyc := rfl

/-! ### `setApu` -/

@[simp] theorem State.setApu_cpu (s : State) (a : Apu) : (s.setApu a).cpu = s.cpu := rfl
@[simp] theorem State.setApu_ram (s : State) (a : Apu) : (s.setApu a).ram = s.ram := rfl
@[simp] theorem State.setApu_dataBus (s : State) (a : Apu) : (s.setApu a).dataBus = s.dataBus := rfl
@[simp] theorem State.setApu_pendingStall (s : State) (a : Apu) : (s.setApu a).pendingStall = s.pendingStall := rfl
@[simp] theorem State.setApu_pads (s : State) (a : Apu) : (s.setApu a).pads = s.pads := rfl
@[simp] theorem State.setApu_ppu (s : State) (a : Apu) : (s.setApu a).ppu = s.ppu := rfl
@[simp] theorem State.setApu_apu (s : State) (a : Apu) : (s.setApu a).apu = a := rfl
@[simp] theorem State.setApu_board (s : State) (a : Apu) : (s.setApu a).board = s.board := rfl
@[simp] theorem State.setApu_mapper (s : State) (a : Apu) : (s.setApu a).mapper = s.mapper := rfl
@[simp] theorem State.setApu_cart (s : State) (a : Apu) : (s.setApu a).cart = s.cart := rfl
@[simp] theorem State.setApu_params (s : State) (a : Apu) : (s.setApu a).params = s.params := rfl
@[simp] theorem State.setApu_cyc (s : State) (a : Apu) : (s.setApu a).cyc = s.cyc := rfl

/-! ### `setBoard` -/

@[simp] theorem State.setBoard_cpu (s : State) (b : Board) : (s.setBoard b).cpu = s.cpu := rfl
@[simp] theorem State.setBoard_ram (s : State) (b : Board) : (s.setBoard b).ram = s.ram := rfl
@[simp] theorem State.setBoard_dataBus (s : State) (b : Board) : (s.setBoard b).dataBus = s.dataBus := rfl
@[simp] theorem State.setBoard_pendingStall (s : State) (b : Board) : (s.setBoard b).pendingStall = s.pendingStall := rfl
@[simp] theorem State.setBoard_pads (s : State) (b : Board) : (s.setBoard b).pads = s.pads := rfl
@[simp] theorem State.setBoard_ppu (s : State) (b : Board) : (s.setBoard b).ppu = s.ppu := rfl
@[simp] theorem State.setBoard_apu (s : State) (b : Board) : (s.setBoard b).apu = s.apu := rfl
@[simp] theorem State.setBoard_board (s : State) (b : Board) : (s.setBoard b).board = b := rfl
@[simp] theorem State.setBoard_mapper (s : State) (b : Board) : (s.setBoard b).mapper = s.mapper := rfl
@[simp] theorem State.setBoard_cart (s : State) (b : Board) : (s.setBoard b).cart = s.cart := rfl
@[simp] theorem State.setBoard_params (s : State) (b : Board) : (s.setBoard b).params = s.params := rfl
@[simp] theorem State.setBoard_cyc (s : State) (b : Board) : (s.setBoard b).cyc = s.cyc := rfl

/-! ### `setMapper` -/

@[simp] theorem State.setMapper_cpu (s : State) (m : MapperState) : (s.setMapper m).cpu = s.cpu := rfl
@[simp] theorem State.setMapper_ram (s : State) (m : MapperState) : (s.setMapper m).ram = s.ram := rfl
@[simp] theorem State.setMapper_dataBus (s : State) (m : MapperState) : (s.setMapper m).dataBus = s.dataBus := rfl
@[simp] theorem State.setMapper_pendingStall (s : State) (m : MapperState) : (s.setMapper m).pendingStall = s.pendingStall := rfl
@[simp] theorem State.setMapper_pads (s : State) (m : MapperState) : (s.setMapper m).pads = s.pads := rfl
@[simp] theorem State.setMapper_ppu (s : State) (m : MapperState) : (s.setMapper m).ppu = s.ppu := rfl
@[simp] theorem State.setMapper_apu (s : State) (m : MapperState) : (s.setMapper m).apu = s.apu := rfl
@[simp] theorem State.setMapper_board (s : State) (m : MapperState) : (s.setMapper m).board = s.board := rfl
@[simp] theorem State.setMapper_mapper (s : State) (m : MapperState) : (s.setMapper m).mapper = m := rfl
@[simp] theorem State.setMapper_cart (s : State) (m : MapperState) : (s.setMapper m).cart = s.cart := rfl
@[simp] theorem State.setMapper_params (s : State) (m : MapperState) : (s.setMapper m).params = s.params := rfl
@[simp] theorem State.setMapper_cyc (s : State) (m : MapperState) : (s.setMapper m).cyc = s.cyc := rfl

/-! ### `setCyc` -/

@[simp] theorem State.setCyc_cpu (s : State) (n : Nat) : (s.setCyc n).cpu = s.cpu := rfl
@[simp] theorem State.setCyc_ram (s : State) (n : Nat) : (s.setCyc n).ram = s.ram := rfl
@[simp] theorem State.setCyc_dataBus (s : State) (n : Nat) : (s.setCyc n).dataBus = s.dataBus := rfl
@[simp] theorem State.setCyc_pendingStall (s : State) (n : Nat) : (s.setCyc n).pendingStall = s.pendingStall := rfl
@[simp] theorem State.setCyc_pads (s : State) (n : Nat) : (s.setCyc n).pads = s.pads := rfl
@[simp] theorem State.setCyc_ppu (s : State) (n : Nat) : (s.setCyc n).ppu = s.ppu := rfl
@[simp] theorem State.setCyc_apu (s : State) (n : Nat) : (s.setCyc n).apu = s.apu := rfl
@[simp] theorem State.setCyc_board (s : State) (n : Nat) : (s.setCyc n).board = s.board := rfl
@[simp] theorem State.setCyc_mapper (s : State) (n : Nat) : (s.setCyc n).mapper = s.mapper := rfl
@[simp] theorem State.setCyc_cart (s : State) (n : Nat) : (s.setCyc n).cart = s.cart := rfl
@[simp] theorem State.setCyc_params (s : State) (n : Nat) : (s.setCyc n).params = s.params := rfl
@[simp] theorem State.setCyc_cyc (s : State) (n : Nat) : (s.setCyc n).cyc = n := rfl

/-! ### `setNmiPending` -/

@[simp] theorem State.setNmiPending_ram (s : State) (b : Bool) : (s.setNmiPending b).ram = s.ram := rfl
@[simp] theorem State.setNmiPending_dataBus (s : State) (b : Bool) : (s.setNmiPending b).dataBus = s.dataBus := rfl
@[simp] theorem State.setNmiPending_pendingStall (s : State) (b : Bool) : (s.setNmiPending b).pendingStall = s.pendingStall := rfl
@[simp] theorem State.setNmiPending_pads (s : State) (b : Bool) : (s.setNmiPending b).pads = s.pads := rfl
@[simp] theorem State.setNmiPending_ppu (s : State) (b : Bool) : (s.setNmiPending b).ppu = s.ppu := rfl
@[simp] theorem State.setNmiPending_apu (s : State) (b : Bool) : (s.setNmiPending b).apu = s.apu := rfl
@[simp] theorem State.setNmiPending_board (s : State) (b : Bool) : (s.setNmiPending b).board = s.board := rfl
@[simp] theorem State.setNmiPending_mapper (s : State) (b : Bool) : (s.setNmiPending b).mapper = s.mapper := rfl
@[simp] theorem State.setNmiPending_cart (s : State) (b : Bool) : (s.setNmiPending b).cart = s.cart := rfl
@[simp] theorem State.setNmiPending_params (s : State) (b : Bool) : (s.setNmiPending b).params = s.params := rfl
@[simp] theorem State.setNmiPending_cyc (s : State) (b : Bool) : (s.setNmiPending b).cyc = s.cyc := rfl
@[simp] theorem State.setNmiPending_cpu (s : State) (b : Bool) :
    (s.setNmiPending b).cpu = { s.cpu with nmiPending := b } := rfl

/-! ### `Cpu.setSp` -/

@[simp] theorem Cpu.setSp_a (c : Cpu) (v : Byte) : (c.setSp v).a = c.a := rfl
@[simp] theorem Cpu.setSp_x (c : Cpu) (v : Byte) : (c.setSp v).x = c.x := rfl
@[simp] theorem Cpu.setSp_y (c : Cpu) (v : Byte) : (c.setSp v).y = c.y := rfl
@[simp] theorem Cpu.setSp_sp (c : Cpu) (v : Byte) : (c.setSp v).sp = v := rfl
@[simp] theorem Cpu.setSp_pc (c : Cpu) (v : Byte) : (c.setSp v).pc = c.pc := rfl
@[simp] theorem Cpu.setSp_p (c : Cpu) (v : Byte) : (c.setSp v).p = c.p := rfl
@[simp] theorem Cpu.setSp_cycles (c : Cpu) (v : Byte) : (c.setSp v).cycles = c.cycles := rfl
@[simp] theorem Cpu.setSp_nmiPending (c : Cpu) (v : Byte) : (c.setSp v).nmiPending = c.nmiPending := rfl

/-! ### `Cpu.setPc` -/

@[simp] theorem Cpu.setPc_a (c : Cpu) (v : Word) : (c.setPc v).a = c.a := rfl
@[simp] theorem Cpu.setPc_x (c : Cpu) (v : Word) : (c.setPc v).x = c.x := rfl
@[simp] theorem Cpu.setPc_y (c : Cpu) (v : Word) : (c.setPc v).y = c.y := rfl
@[simp] theorem Cpu.setPc_sp (c : Cpu) (v : Word) : (c.setPc v).sp = c.sp := rfl
@[simp] theorem Cpu.setPc_pc (c : Cpu) (v : Word) : (c.setPc v).pc = v := rfl
@[simp] theorem Cpu.setPc_p (c : Cpu) (v : Word) : (c.setPc v).p = c.p := rfl
@[simp] theorem Cpu.setPc_cycles (c : Cpu) (v : Word) : (c.setPc v).cycles = c.cycles := rfl
@[simp] theorem Cpu.setPc_nmiPending (c : Cpu) (v : Word) : (c.setPc v).nmiPending = c.nmiPending := rfl

/-! ### `Cpu.setP` -/

@[simp] theorem Cpu.setP_a (c : Cpu) (q : Flags) : (c.setP q).a = c.a := rfl
@[simp] theorem Cpu.setP_x (c : Cpu) (q : Flags) : (c.setP q).x = c.x := rfl
@[simp] theorem Cpu.setP_y (c : Cpu) (q : Flags) : (c.setP q).y = c.y := rfl
@[simp] theorem Cpu.setP_sp (c : Cpu) (q : Flags) : (c.setP q).sp = c.sp := rfl
@[simp] theorem Cpu.setP_pc (c : Cpu) (q : Flags) : (c.setP q).pc = c.pc := rfl
@[simp] theorem Cpu.setP_p (c : Cpu) (q : Flags) : (c.setP q).p = q := rfl
@[simp] theorem Cpu.setP_cycles (c : Cpu) (q : Flags) : (c.setP q).cycles = c.cycles := rfl
@[simp] theorem Cpu.setP_nmiPending (c : Cpu) (q : Flags) : (c.setP q).nmiPending = c.nmiPending := rfl

/-! ### `Cpu.loadA` -/

@[simp] theorem Cpu.loadA_a (c : Cpu) (v : Byte) : (c.loadA v).a = v := rfl
@[simp] theorem Cpu.loadA_x (c : Cpu) (v : Byte) : (c.loadA v).x = c.x := rfl
@[simp] theorem Cpu.loadA_y (c : Cpu) (v : Byte) : (c.loadA v).y = c.y := rfl
@[simp] theorem Cpu.loadA_sp (c : Cpu) (v : Byte) : (c.loadA v).sp = c.sp := rfl
@[simp] theorem Cpu.loadA_pc (c : Cpu) (v : Byte) : (c.loadA v).pc = c.pc := rfl
@[simp] theorem Cpu.loadA_p (c : Cpu) (v : Byte) : (c.loadA v).p = c.p.setZN v := rfl
@[simp] theorem Cpu.loadA_cycles (c : Cpu) (v : Byte) : (c.loadA v).cycles = c.cycles := rfl
@[simp] theorem Cpu.loadA_nmiPending (c : Cpu) (v : Byte) : (c.loadA v).nmiPending = c.nmiPending := rfl

/-! ### `Cpu.loadX` -/

@[simp] theorem Cpu.loadX_a (c : Cpu) (v : Byte) : (c.loadX v).a = c.a := rfl
@[simp] theorem Cpu.loadX_x (c : Cpu) (v : Byte) : (c.loadX v).x = v := rfl
@[simp] theorem Cpu.loadX_y (c : Cpu) (v : Byte) : (c.loadX v).y = c.y := rfl
@[simp] theorem Cpu.loadX_sp (c : Cpu) (v : Byte) : (c.loadX v).sp = c.sp := rfl
@[simp] theorem Cpu.loadX_pc (c : Cpu) (v : Byte) : (c.loadX v).pc = c.pc := rfl
@[simp] theorem Cpu.loadX_p (c : Cpu) (v : Byte) : (c.loadX v).p = c.p.setZN v := rfl
@[simp] theorem Cpu.loadX_cycles (c : Cpu) (v : Byte) : (c.loadX v).cycles = c.cycles := rfl
@[simp] theorem Cpu.loadX_nmiPending (c : Cpu) (v : Byte) : (c.loadX v).nmiPending = c.nmiPending := rfl

/-! ### `Cpu.loadY` -/

@[simp] theorem Cpu.loadY_a (c : Cpu) (v : Byte) : (c.loadY v).a = c.a := rfl
@[simp] theorem Cpu.loadY_x (c : Cpu) (v : Byte) : (c.loadY v).x = c.x := rfl
@[simp] theorem Cpu.loadY_y (c : Cpu) (v : Byte) : (c.loadY v).y = v := rfl
@[simp] theorem Cpu.loadY_sp (c : Cpu) (v : Byte) : (c.loadY v).sp = c.sp := rfl
@[simp] theorem Cpu.loadY_pc (c : Cpu) (v : Byte) : (c.loadY v).pc = c.pc := rfl
@[simp] theorem Cpu.loadY_p (c : Cpu) (v : Byte) : (c.loadY v).p = c.p.setZN v := rfl
@[simp] theorem Cpu.loadY_cycles (c : Cpu) (v : Byte) : (c.loadY v).cycles = c.cycles := rfl
@[simp] theorem Cpu.loadY_nmiPending (c : Cpu) (v : Byte) : (c.loadY v).nmiPending = c.nmiPending := rfl

/-! ### `Cpu.setAcc` -/

@[simp] theorem Cpu.setAcc_a (c : Cpu) (r : Computed) : (c.setAcc r).a = r.value := rfl
@[simp] theorem Cpu.setAcc_x (c : Cpu) (r : Computed) : (c.setAcc r).x = c.x := rfl
@[simp] theorem Cpu.setAcc_y (c : Cpu) (r : Computed) : (c.setAcc r).y = c.y := rfl
@[simp] theorem Cpu.setAcc_sp (c : Cpu) (r : Computed) : (c.setAcc r).sp = c.sp := rfl
@[simp] theorem Cpu.setAcc_pc (c : Cpu) (r : Computed) : (c.setAcc r).pc = c.pc := rfl
@[simp] theorem Cpu.setAcc_p (c : Cpu) (r : Computed) : (c.setAcc r).p = r.flags := rfl
@[simp] theorem Cpu.setAcc_cycles (c : Cpu) (r : Computed) : (c.setAcc r).cycles = c.cycles := rfl
@[simp] theorem Cpu.setAcc_nmiPending (c : Cpu) (r : Computed) : (c.setAcc r).nmiPending = c.nmiPending := rfl

end Sys2Proof.Machine
end

