-- ==== Sys2Proof/Laws/Bus.lean ====
section
/-! SUPPORT. What one bus read and one bus write can do: the reads' effect, the rows of the memory map
at the addresses the instructions use, the frame of a write. -/

namespace Sys2Proof.Machine

/-! ### The effect of reads composes -/

theorem banks_kind {a b : MapperState} (h : a.banks = b.banks) : a.kind = b.kind := by
  cases a <;> cases b <;> simp_all [MapperState.banks, MapperState.kind]

theorem banks_nrom {a b : MapperState} (h : a.banks = b.banks) : a = .nrom ↔ b = .nrom := by
  cases a <;> cases b <;> simp_all [MapperState.banks]

theorem mmc3Clock_eq (m : Mmc3) :
    mmc3Clock m = { m with irqCounter := (mmc3Clock m).irqCounter, irqReload := (mmc3Clock m).irqReload,
                           irqFlag := (mmc3Clock m).irqFlag } := by
  unfold mmc3Clock
  dsimp only
  split <;> (dsimp only; split <;> rfl)

theorem onPpuA12_banks (m : MapperState) (level : Bool) : (onPpuA12 m level).banks = m.banks := by
  cases m with
  | mmc3 m =>
    simp only [onPpuA12, MapperState.banks]
    split
    · rw [mmc3Clock_eq]
    · rfl
  | _ => rfl

@[refl] theorem ReadEffect.refl (s : State) : ReadEffect s s :=
  ⟨rfl, rfl, rfl, rfl, rfl, rfl, rfl, rfl, rfl, rfl, rfl⟩

theorem ReadEffect.trans {s t u : State} (h : ReadEffect s t) (h' : ReadEffect t u) : ReadEffect s u where
  cpu := h'.cpu.trans h.cpu
  ram := h'.ram.trans h.ram
  pendingStall := h'.pendingStall.trans h.pendingStall
  pads := by rw [h'.pads, h.pads]
  ppu := by rw [h'.ppu, h.ppu]
  apu := by rw [h'.apu, h.apu]
  board := h'.board.trans h.board
  mapper := h'.mapper.trans h.mapper
  cart := h'.cart.trans h.cart
  params := h'.params.trans h.params
  cyc := h'.cyc.trans h.cyc

theorem ReadEffect.setDataBus {s t : State} (h : ReadEffect s t) (b : Byte) :
    ReadEffect s (t.setDataBus b) := by
  obtain ⟨⟩ := h; constructor <;> assumption

/-! ### Reads -/

theorem notifyA12_effect (s : State) (a : VAddr) : ReadEffect s (notifyA12 s a) := by
  constructor <;> first | rfl | exact onPpuA12_banks _ _

theorem ppuRead_effect (s : State) (a : VAddr) : ReadEffect s (ppuRead s a).2 := by
  unfold ppuRead
  split
  · exact notifyA12_effect s a
  · split <;> rfl

theorem ReadEffect.bumpV {s t : State} (h : ReadEffect s t) (b : Byte) :
    ReadEffect s (t.setPpu { t.ppu with readBuffer := b }.bumpV) := by
  refine h.trans ?_
  constructor <;> rfl

theorem readPpuData_effect (s : State) : ReadEffect s (readPpuData s).2 := by
  unfold readPpuData
  dsimp only
  split
  · exact (ppuRead_effect s _).bumpV _
  · exact (ppuRead_effect s _).bumpV _

theorem ppuRegRead_effect (s : State) (i : Nat) : ReadEffect s (ppuRegRead s i).2 := by
  unfold ppuRegRead
  split
  · constructor <;> rfl
  · rfl
  · exact readPpuData_effect s
  · rfl

theorem Pads.read1_eq (p : Pads) : p.read1 = { p with shift1 := p.read1.shift1 } := by
  unfold Pads.read1; split <;> rfl

theorem Pads.read2_eq (p : Pads) : p.read2 = { p with shift2 := p.read2.shift2 } := by
  unfold Pads.read2; split <;> rfl

theorem busReadRow_effect (s : State) (a : Word) : ReadEffect s (busReadRow s a).2 := by
  unfold busReadRow
  split
  · rfl
  split
  · exact ppuRegRead_effect s _
  split
  · constructor <;> rfl
  split
  · constructor <;> first | rfl | (simp [Pads.read1]; split <;> rfl)
  split
  · constructor <;> first | rfl | (simp [Pads.read2]; split <;> rfl)
  split <;> rfl

/-- Everything a bus read may change. -/
theorem busRead_effect (s : State) (a : Word) : ReadEffect s (busRead s a).2 :=
  (busReadRow_effect s a).setDataBus _

/-! ### Reads, register by register -/

/-- A PPU read is its byte and the mapper's notification. -/
theorem ppuRead_state (s : State) (a : VAddr) : (ppuRead s a).2 = s.setMapper (ppuRead s a).2.mapper := by
  unfold ppuRead
  split
  · rfl
  · split <;> rfl

/-- A PPU read of the pattern tables notifies the mapper of A12. -/
theorem ppuRead_chr {s : State} {a : VAddr} (h : a.toNat < 0x2000) :
    (ppuRead s a).2.mapper = onPpuA12 s.mapper (bit a 12) := by simp [ppuRead, h, notifyA12]

/-- A PPU read of anything else changes nothing. -/
theorem ppuRead_rest {s : State} {a : VAddr} (h : ¬a.toNat < 0x2000) : (ppuRead s a).2 = s := by
  simp only [ppuRead, if_neg h]
  split <;> rfl

theorem ReadFrame.refl {s : State} {a : Word} (h : ¬reachesChr s a) : ReadFrame s s a where
  effect := .refl s
  status _ := ⟨rfl, rfl⟩
  data _ := ⟨rfl, rfl⟩
  frameIrq _ := rfl
  shift1 _ := rfl
  shift2 _ := rfl
  mapper _ := rfl
  a12 h' := absurd h' h

/-- The PPUDATA read: `v`, the buffer, and the notification of A12. -/
theorem readPpuData_state (s : State) :
    (readPpuData s).2 =
      { s with ppu := { s.ppu with v := (readPpuData s).2.ppu.v, readBuffer := (readPpuData s).2.ppu.readBuffer }
               mapper := (readPpuData s).2.mapper } := by
  have key (a : VAddr) (b : Byte) :
      let t := (ppuRead s a).2
      t.setPpu { t.ppu with readBuffer := b }.bumpV =
        { s with ppu := { s.ppu with v := t.ppu.bumpV.v, readBuffer := b }, mapper := t.mapper } := by
    have h := ppuRead_state s a
    generalize (ppuRead s a).2 = t at h ⊢
    dsimp only
    rw [h]
    rfl
  unfold readPpuData
  dsimp only
  split
  · exact key _ _
  · exact key _ _

/-- The PPUDATA read notifies the mapper of A12 at a pattern address, and at no other. -/
theorem readPpuData_mapper (s : State) :
    (readPpuData s).2.mapper =
      if (vramAddr s).toNat < 0x2000 then onPpuA12 s.mapper ((vramAddr s).getLsbD 12) else s.mapper := by
  unfold readPpuData vramAddr
  dsimp only
  split
  · split
    · rename_i h; exact ppuRead_chr h
    · rename_i h; exact (congrArg State.mapper (ppuRead_rest h) :)
  · rename_i h
    have h1 : ¬(s.ppu.v.setWidth 14 - 0x1000#14).toNat < 0x2000 := by bv_omega
    rw [if_neg (by omega)]
    exact (congrArg State.mapper (ppuRead_rest h1) :)

theorem ppuRegRead_frame {s : State} {a : Word} (h : isPpu a) : ReadFrame s (ppuRegRead s (a.toNat % 8)).2 a := by
  by_cases h7 : a.toNat % 8 = 7
  · have hr : isPpuReg a 7 := ⟨h.1, h.2, h7⟩
    have hs := readPpuData_state s
    rw [h7]
    show ReadFrame s (readPpuData s).2 a
    exact
      { effect := readPpuData_effect s
        status := fun _ => by rw [hs]; exact ⟨rfl, rfl⟩
        data := fun hn => absurd hr hn
        frameIrq := fun _ => by rw [hs]
        shift1 := fun _ => by rw [hs]
        shift2 := fun _ => by rw [hs]
        mapper := fun hn => by rw [readPpuData_mapper, if_neg fun hv => hn ⟨hr, hv⟩]
        a12 := fun hv => by rw [readPpuData_mapper, if_pos hv.2] }
  · have hc : ¬reachesChr s a := fun hv => h7 hv.1.2.2
    by_cases h2 : a.toNat % 8 = 2
    · rw [h2]
      exact
        { ReadFrame.refl hc with
          effect := ppuRegRead_effect s 2
          status := fun hn => absurd ⟨h.1, h.2, h2⟩ hn }
    · have e : (ppuRegRead s (a.toNat % 8)).2 = s := by
        unfold ppuRegRead
        split <;> first | rfl | omega
      rw [e]
      exact .refl hc

theorem busReadRow_frame (s : State) (a : Word) : ReadFrame s (busReadRow s a).2 a := by
  have low : a.toNat < 0x2000 ∨ 0x4000 ≤ a.toNat → ¬reachesChr s a := fun h hv => by
    have := hv.1.1; have := hv.1.2.1; omega
  have he := busReadRow_effect s a
  revert he
  unfold busReadRow
  split
  · rename_i h; exact fun _ => .refl (low (.inl h))
  split
  · exact fun _ => ppuRegRead_frame ⟨by omega, by omega⟩
  have hc := low (.inr (by omega))
  split
  · rename_i h; exact fun he => { ReadFrame.refl hc with effect := he, frameIrq := fun hn => absurd h hn }
  split
  · rename_i h
    exact fun he => { ReadFrame.refl hc with
                      effect := he
                      shift1 := fun hn => absurd h hn
                      shift2 := fun _ => by simp only [State.setPads_pads, Pads.read1]; split <;> rfl }
  split
  · rename_i h
    exact fun he => { ReadFrame.refl hc with
                      effect := he
                      shift1 := fun _ => by simp only [State.setPads_pads, Pads.read2]; split <;> rfl
                      shift2 := fun hn => absurd h hn }
  split <;> exact fun _ => .refl hc

/-- Everything a bus read of `a` may change. -/
theorem busRead_frame (s : State) (a : Word) : ReadFrame s (busRead s a).2 a :=
  { busReadRow_frame s a with effect := busRead_effect s a }

@[simp] theorem busRead_cpu (s : State) (a : Word) : (busRead s a).2.cpu = s.cpu := (busRead_effect s a).cpu
@[simp] theorem busRead_cart (s : State) (a : Word) : (busRead s a).2.cart = s.cart := (busRead_effect s a).cart
@[simp] theorem busRead_params (s : State) (a : Word) : (busRead s a).2.params = s.params :=
  (busRead_effect s a).params
@[simp] theorem busRead_ram (s : State) (a : Word) : (busRead s a).2.ram = s.ram := (busRead_effect s a).ram
@[simp] theorem busRead_board (s : State) (a : Word) : (busRead s a).2.board = s.board :=
  (busRead_effect s a).board
@[simp] theorem busRead_pendingStall (s : State) (a : Word) : (busRead s a).2.pendingStall = s.pendingStall :=
  (busRead_effect s a).pendingStall
@[simp] theorem busRead_cyc (s : State) (a : Word) : (busRead s a).2.cyc = s.cyc := (busRead_effect s a).cyc

/-- A read leaves its result on the bus latch. -/
@[simp] theorem busRead_dataBus (s : State) (a : Word) : (busRead s a).2.dataBus = (busRead s a).1 := rfl

/-- A read of RAM. -/
theorem busRead_ramRow {s : State} {a : Word} (h : a.toNat < 0x2000) :
    busRead s a = (Cells.read s.ram (a.toNat % 0x0800), s.setDataBus (Cells.read s.ram (a.toNat % 0x0800))) := by
  simp [busRead, busReadRow, h]

/-- A read of mapper space. -/
theorem busRead_mapperRow {s : State} {a : Word} (h : 0x4020 ≤ a.toNat) :
    busRead s a = (mapperCpuRead s a, s.setDataBus (mapperCpuRead s a)) := by
  have h1 : ¬ a.toNat < 0x2000 := by omega
  have h2 : ¬ a.toNat < 0x4000 := by omega
  have h3 : ¬ a.toNat < 0x4020 := by omega
  have h4 : a.toNat ≠ 0x4015 := by omega
  have h5 : a.toNat ≠ 0x4016 := by omega
  have h6 : a.toNat ≠ 0x4017 := by omega
  simp [busRead, busReadRow, h1, h2, h3, h4, h5, h6]

/-- A write of mapper space. -/
theorem busStore_mapperRow {s : State} {a : Word} (v : Byte) (h : 0x4020 ≤ a.toNat) :
    busStore s a v = mapperCpuWrite (s.setDataBus v) a v := by
  have h1 : ¬ a.toNat < 0x2000 := by omega
  have h2 : ¬ a.toNat < 0x4000 := by omega
  have h3 : ¬ a.toNat < 0x4014 := by omega
  have h4 : ¬ a.toNat < 0x4020 := by omega
  have h5 : a.toNat ≠ 0x4014 ∧ a.toNat ≠ 0x4015 ∧ a.toNat ≠ 0x4016 ∧ a.toNat ≠ 0x4017 := by omega
  simp [busStore, busWriteRow, h1, h2, h3, h4, h5]

theorem readPair_effect (s : State) (lo hi : Word) : ReadEffect s (readPair s lo hi).2 :=
  (busRead_effect s lo).trans (busRead_effect _ hi)

theorem read16_effect (s : State) (a : Word) : ReadEffect s (read16 s a).2 := readPair_effect s _ _

theorem fetchBytes_effect (n : Nat) (a : Word) (s : State) : ReadEffect s (fetchBytes n a s).2 := by
  induction n generalizing a s with
  | zero => exact ReadEffect.refl s
  | succ n ih => exact (busRead_effect s a).trans (ih _ _)

theorem indexed_after (base : Word) (i : Byte) (s : State) : (indexed base i s).after = s := rfl

theorem locate_effect (m : MemMode) (s : State) : ReadEffect s (m.locate s).after := by
  cases m <;> first | exact ReadEffect.refl s | exact readPair_effect s _ _

/-- The pointer reads of a mode lie in page zero: they change the bus latch alone. -/
theorem readPair_zeroPage (s : State) (lo hi : Byte) :
    (readPair s (zeroPage lo) (zeroPage hi)).2 = s.setDataBus (readPair s (zeroPage lo) (zeroPage hi)).2.dataBus := by
  have page (z : Byte) : (zeroPage z).toNat < 0x2000 := by
    have := z.isLt; simp [zeroPage, BitVec.toNat_setWidth]; omega
  simp only [readPair, busRead_ramRow (page _)]
  rfl

theorem locate_after (m : MemMode) (s : State) :
    (m.locate s).after = s.setDataBus (m.locate s).after.dataBus := by
  cases m <;> first | rfl | exact readPair_zeroPage s _ _

theorem fetch_effect (o : Operand) (s : State) : ReadEffect s (o.fetch s).after := by
  cases o with
  | imm v => exact ReadEffect.refl s
  | mem m => exact (locate_effect m s).trans (busRead_effect _ _)

/-! ### Refused writes -/

/-- A refused write needs a mapper address. -/
theorem writeRefused_low {s : State} {a : Word} (h : a.toNat < 0x4020) : writeRefused s a = false := by
  have h1 : ¬ 0x4020 ≤ a.toNat := by omega
  have h2 : ¬ 0x8000 ≤ a.toNat := by omega
  simp [writeRefused, writeMeaningless, h1, h2]

theorem writeRefused_congr {s t : State} (h : ReadEffect s t) (a : Word) :
    writeRefused t a = writeRefused s a := by
  simp [writeRefused, writeMeaningless, h.params, banks_nrom h.mapper]

theorem busWrite_next {s : State} {a : Word} (v : Byte) (h : writeRefused s a = false) :
    busWrite s a v = .next (busStore s a v) := by simp [busWrite, h]

theorem busWrite_fault {s : State} {a : Word} (v : Byte) (h : writeRefused s a = true) :
    busWrite s a v = .fault (.badAccess a .write s) := by simp [busWrite, h]

/-! ### Writes of RAM -/

theorem busStore_ramRow {s : State} {a : Word} (v : Byte) (h : a.toNat < 0x2000) :
    busStore s a v = (s.setDataBus v).setRam (Cells.write s.ram (a.toNat % 0x0800) v) := by
  simp [busStore, busWriteRow, h]

/-! ### The stack -/

theorem stackAddr_toNat (sp : Byte) : (stackAddr sp).toNat = 0x0100 + sp.toNat := by
  have := sp.isLt
  simp [stackAddr, BitVec.toNat_add, BitVec.toNat_setWidth]
  omega

theorem stackAddr_ram (sp : Byte) : (stackAddr sp).toNat < 0x2000 := by
  have := sp.isLt; rw [stackAddr_toNat]; omega

theorem stackAddr_mod (sp : Byte) : (stackAddr sp).toNat % 0x0800 = 0x0100 + sp.toNat := by
  have := sp.isLt; rw [stackAddr_toNat]; omega

/-- A push, component by component. -/
theorem push_eq (s : State) (v : Byte) :
    push s v = { s with dataBus := v, ram := Cells.write s.ram (0x0100 + s.cpu.sp.toNat) v,
                        cpu := { s.cpu with sp := s.cpu.sp - 1#8 } } := by
  simp only [push]
  rw [busStore_ramRow _ (stackAddr_ram _), stackAddr_mod]
  rfl

/-- A pull: the byte of RAM above `SP`, and nothing else but `SP` and the bus latch. -/
theorem pull_eq (s : State) :
    pull s = (Cells.read s.ram (0x0100 + (s.cpu.sp + 1#8).toNat),
      { s with dataBus := Cells.read s.ram (0x0100 + (s.cpu.sp + 1#8).toNat),
               cpu := { s.cpu with sp := s.cpu.sp + 1#8 } }) := by
  simp only [pull]
  rw [busRead_ramRow (stackAddr_ram _), stackAddr_mod]
  rfl

/-! ### The frame of a write -/

/-- A write that notifies no A12 and changes nothing. -/
theorem StoreFrame.refl {s : State} {a : Word} (h : ¬reachesChr s a) : StoreFrame s s a where
  ram _ _ := rfl
  prgRam _ _ := rfl
  chrRam _ _ := rfl
  vram _ _ := rfl
  cartVram _ _ := rfl
  palette _ _ := rfl
  oam _ _ _ := rfl
  cpu := rfl
  nmiPending _ := rfl
  ppu := by constructor <;> intros <;> first | rfl | exact ⟨rfl, rfl⟩
  ppuKept _ _ := rfl
  apu := by constructor <;> intros <;> rfl
  pads _ := rfl
  snapshots := ⟨rfl, rfl⟩
  shifts _ _ := ⟨rfl, rfl⟩
  mapper _ _ _ := rfl
  banks _ := rfl
  a12 h' := absurd h' h
  pendingStall _ := rfl
  cart := rfl
  params := rfl
  cyc := rfl

/-- Outside the PPU's registers no write reaches the pattern tables. -/
theorem not_reachesChr {s : State} {a : Word} (h : a.toNat < 0x2000 ∨ 0x4000 ≤ a.toNat) : ¬reachesChr s a :=
  fun hv => by have := hv.1.1; have := hv.1.2.1; omega

theorem mapperCpuWrite_frame (s : State) (a : Word) (v : Byte) (h : 0x4020 ≤ a.toNat) :
    StoreFrame s (mapperCpuWrite s a v) a := by
  have hc : ¬reachesChr s a := not_reachesChr (.inr (by omega))
  have base := StoreFrame.refl hc
  unfold mapperCpuWrite
  split
  · exact base
  split
  · split
    · rename_i hw
      exact { base with prgRam := fun k hk =>
                Cells.read_write_other _ _ fun e => hk ⟨by omega, by omega, hw, e⟩ }
    · exact base
  · exact { base with mapper := fun hn => by omega, banks := fun hn => by omega, a12 := fun h => absurd h hc }

/-! ### OAM DMA -/

/-- What an OAM DMA's copying may change: what its reads may, and OAM. -/
structure DmaEffect (s t : State) : Prop where
  cpu : t.cpu = s.cpu
  ram : t.ram = s.ram
  pendingStall : t.pendingStall = s.pendingStall
  ppu : t.ppu = { s.ppu with nmiOccurred := t.ppu.nmiOccurred, w := t.ppu.w, v := t.ppu.v,
                             readBuffer := t.ppu.readBuffer, oam := t.ppu.oam }
  apu : t.apu = { s.apu with frame := { s.apu.frame with frameIrq := t.apu.frame.frameIrq } }
  pads : t.pads = { s.pads with shift1 := t.pads.shift1, shift2 := t.pads.shift2 }
  board : t.board = s.board
  mapper : t.mapper.banks = s.mapper.banks
  cart : t.cart = s.cart
  params : t.params = s.params
  cyc : t.cyc = s.cyc

theorem DmaEffect.refl (s : State) : DmaEffect s s := ⟨rfl, rfl, rfl, rfl, rfl, rfl, rfl, rfl, rfl, rfl, rfl⟩

theorem DmaEffect.trans {s t u : State} (h : DmaEffect s t) (h' : DmaEffect t u) : DmaEffect s u where
  cpu := h'.cpu.trans h.cpu
  ram := h'.ram.trans h.ram
  pendingStall := h'.pendingStall.trans h.pendingStall
  ppu := by rw [h'.ppu, h.ppu]
  apu := by rw [h'.apu, h.apu]
  pads := by rw [h'.pads, h.pads]
  board := h'.board.trans h.board
  mapper := h'.mapper.trans h.mapper
  cart := h'.cart.trans h.cart
  params := h'.params.trans h.params
  cyc := h'.cyc.trans h.cyc

theorem dmaByte_effect (base : Word) (s : State) (i : Nat) : DmaEffect s (dmaByte base s i) := by
  have h := busRead_effect s (base + BitVec.ofNat 16 i)
  unfold dmaByte
  exact ⟨h.cpu, h.ram, h.pendingStall, by simp only [State.setPpu_ppu]; rw [h.ppu], h.apu, h.pads, h.board,
    h.mapper, h.cart, h.params, h.cyc⟩

theorem dmaFold_effect (base : Word) (l : List Nat) (s : State) : DmaEffect s (l.foldl (dmaByte base) s) := by
  induction l generalizing s with
  | nil => exact DmaEffect.refl s
  | cons i l ih => exact (dmaByte_effect base s i).trans (ih _)

/-- Everything an OAM DMA's copy may change. -/
theorem dmaCopy_effect (s : State) (v : Byte) : DmaEffect s (dmaCopy s v) := dmaFold_effect _ _ s

theorem oamDma_eq (s : State) (v : Byte) :
    oamDma s v = (dmaCopy s v).setPendingStall (s.pendingStall + dmaStall s.cpu.cycles) := by
  have h := dmaCopy_effect s v
  simp only [oamDma, h.cpu, h.pendingStall]

theorem oamDma_frame (s : State) (v : Byte) (a : Word) (ha : a.toNat = 0x4014) :
    StoreFrame s (oamDma s v) a := by
  rw [oamDma_eq]
  generalize dmaCopy s v = t, dmaCopy_effect s v = h
  have hc : ¬reachesChr s a := not_reachesChr (.inr (by omega))
  exact
    { ram := fun k _ => by simp only [State.setPendingStall_ram, h.ram]
      prgRam := fun k _ => by simp only [State.setPendingStall_board, h.board]
      chrRam := fun k _ => by simp only [State.setPendingStall_board, h.board]
      vram := fun k _ => by simp only [State.setPendingStall_ppu]; rw [h.ppu]
      cartVram := fun k _ => by simp only [State.setPendingStall_board, h.board]
      palette := fun k _ => by simp only [State.setPendingStall_ppu]; rw [h.ppu]
      oam := fun k _ hn => absurd ha hn
      cpu := by simp only [State.setPendingStall_cpu, h.cpu]
      nmiPending := fun _ => by simp only [State.setPendingStall_cpu, h.cpu]
      ppu := by
        simp only [State.setPendingStall_ppu]
        constructor <;> intros <;> first | contradiction | rw [h.ppu]
      ppuKept := fun _ hn => absurd ha hn
      apu := by
        simp only [State.setPendingStall_apu]
        constructor <;> intros <;> first | contradiction | rw [h.apu]
      pads := fun _ => by simp only [State.setPendingStall_pads]; rw [h.pads]
      snapshots := by simp only [State.setPendingStall_pads]; rw [h.pads]; exact ⟨rfl, rfl⟩
      shifts := fun _ hn => absurd ha hn
      mapper := fun _ _ hn => absurd ha hn
      banks := fun _ => h.mapper
      a12 := fun hv => absurd hv hc
      pendingStall := fun hn => absurd ha hn
      cart := h.cart
      params := h.params
      cyc := h.cyc }

/-! ### PPU register writes -/

/-- The registers of `banks` decide every CHR offset. -/
theorem chrOffset_banks (m : MapperState) (c : Cartridge) (a : VAddr) :
    chrOffset m.banks c a = chrOffset m c a := by cases m <;> rfl

/-- The notification of A12 moves no CHR bank. -/
theorem chrOffset_onPpuA12 (m : MapperState) (level : Bool) (c : Cartridge) (a : VAddr) :
    chrOffset (onPpuA12 m level) c a = chrOffset m c a := by
  rw [← chrOffset_banks, onPpuA12_banks, chrOffset_banks]

/-- A PPU write of the pattern tables, whole. -/
theorem ppuWrite_chr {s : State} {a : VAddr} (b : Byte) (h : a.toNat < 0x2000) :
    ppuWrite s a b =
      { s with
        mapper := onPpuA12 s.mapper (bit a 12)
        board := if s.cart.chrLen = 0 then
            { s.board with chrRam := Cells.write s.board.chrRam (chrOffset s.mapper s.cart a) b }
          else s.board } := by
  simp only [ppuWrite, if_pos h, chrWrite, notifyA12, State.setMapper_cart, State.setMapper_mapper,
    State.setMapper_board, chrOffset_onPpuA12]
  split <;> rfl

theorem ppuWrite_frame (s : State) (a : Word) (b : Byte) (ha : isPpuReg a 7) :
    StoreFrame s (ppuWrite s (vramAddr s) b) a := by
  have h8 : a.toNat < 0x8000 := by have := ha.2.1; omega
  have hp : isPpu a := ⟨ha.1, ha.2.1⟩
  by_cases hv : (vramAddr s).toNat < 0x2000
  · have hc : reachesChr s a := ⟨ha, hv⟩
    rw [ppuWrite_chr b hv]
    constructor
    case chrRam =>
      intro k hk
      dsimp only
      split
      · rename_i hl
        exact Cells.read_write_other _ _ fun e => hk ⟨hc, hl, e⟩
      · rfl
    case prgRam => intros; dsimp only; split <;> rfl
    case cartVram => intros; dsimp only; split <;> rfl
    case ppu => constructor <;> intros <;> first | rfl | exact ⟨rfl, rfl⟩
    case apu => constructor <;> intros <;> rfl
    case mapper => intro _ hn; exact absurd hc hn
    case banks => intro _; exact onPpuA12_banks _ _
    all_goals intros; first | rfl | exact ⟨rfl, rfl⟩
  have base := StoreFrame.refl (s := s) (a := a) fun h => hv h.2
  unfold ppuWrite
  rw [if_neg hv]
  split
  · rename_i hv'
    have hn : reachesNametable s a := ⟨ha, by omega, hv'⟩
    unfold ntWrite
    simp only
    split
    · rename_i hb
      exact { base with
              vram := fun k hk => Cells.read_write_other _ _ fun e => hk ⟨hn, hb, e⟩
              ppu := by constructor <;> intros <;> first | rfl | exact ⟨rfl, rfl⟩
              ppuKept := fun h => absurd hp h }
    · rename_i hb
      exact { base with
              cartVram := fun k hk => Cells.read_write_other _ _ fun e => hk ⟨hn, by omega, e⟩ }
  · exact { base with
            palette := fun k hk => Cells.read_write_other _ _ fun e => hk ⟨ha, by omega, e⟩
            ppu := by constructor <;> intros <;> first | rfl | exact ⟨rfl, rfl⟩
            ppuKept := fun h => absurd hp h }

theorem StoreFrame.bumpV {s t : State} {a : Word} (h : StoreFrame s t a) (ha : isPpuReg a 7) :
    StoreFrame s (t.setPpu t.ppu.bumpV) a :=
  { h with
    ppu :=
      { h.ppu with
        kept := (congrArg Ppu.bumpV h.ppu.kept).trans rfl
        v := fun _ hn => absurd ha hn }
    ppuKept := fun hn => absurd ⟨ha.1, ha.2.1⟩ hn }

/-- A write of a PPU register other than PPUDATA that leaves everything but the PPU's registers. -/
theorem StoreFrame.ofPpu {s : State} {a : Word} (ha : isPpu a) (h7 : a.toNat % 8 ≠ 7) {q : Ppu}
    (h : PpuStoreFrame s.ppu q a) (hv : q.vram = s.ppu.vram) (hl : q.palette = s.ppu.palette)
    (ho : ∀ k, ¬(isPpuReg a 4 ∧ k = s.ppu.oamAddr.toNat) → Cells.read q.oam k = Cells.read s.ppu.oam k) :
    StoreFrame s (s.setPpu q) a :=
  { StoreFrame.refl (s := s) (a := a) fun hc => h7 hc.1.2.2 with
    vram := fun k _ => by show Cells.read q.vram k = _; rw [hv]
    palette := fun k _ => by show Cells.read q.palette k = _; rw [hl]
    oam := fun k hk _ => ho k hk
    ppu := h
    ppuKept := fun hn => absurd ha hn }

theorem writePpuCtrl_frame (s : State) (a : Word) (b : Byte) (h : isPpuReg a 0) :
    StoreFrame s (writePpuCtrl s b) a := by
  have hq : StoreFrame s (s.setPpu { s.ppu with ctrl := b, t := putField s.ppu.t 10 (field b 0 2) }) a := by
    refine .ofPpu ⟨h.1, h.2.1⟩ (by have := h.2.2; omega) ?_ rfl rfl fun _ _ => rfl
    constructor <;> intros <;> first | rfl | contradiction | exact ⟨rfl, rfl⟩
  have nmi (n : Bool) : StoreFrame s ((s.setPpu { s.ppu with ctrl := b, t := putField s.ppu.t 10 (field b 0 2) }).setNmiPending n) a :=
    { hq with cpu := rfl, nmiPending := fun hn => absurd h hn }
  unfold writePpuCtrl
  dsimp only
  split
  · exact nmi false
  split
  · exact nmi true
  · exact hq

theorem ppuRegWrite_frame (s : State) (a : Word) (b : Byte) (ha : isPpu a) :
    StoreFrame s (ppuRegWrite s (a.toNat % 8) b) a := by
  have is {k : Nat} (h : a.toNat % 8 = k) : isPpuReg a k := ⟨ha.1, ha.2, h⟩
  unfold ppuRegWrite
  split
  case h_1 h => exact writePpuCtrl_frame s a b (is h)
  case h_2 h =>
    have := is h
    refine .ofPpu ha (by omega) ?_ rfl rfl fun _ _ => rfl
    constructor <;> intros <;> first | rfl | contradiction | exact ⟨rfl, rfl⟩
  case h_3 h =>
    have := is h
    refine .ofPpu ha (by omega) ?_ rfl rfl fun _ _ => rfl
    constructor <;> intros <;> first | rfl | contradiction | exact ⟨rfl, rfl⟩
  case h_4 h =>
    have h4 := is h
    refine .ofPpu ha (by omega) ?_ rfl rfl fun k hk => Cells.read_write_other _ _ fun e => hk ⟨h4, e⟩
    constructor <;> intros <;> first | rfl | contradiction | exact ⟨rfl, rfl⟩
  case h_5 h =>
    have := is h
    unfold writePpuScroll
    split <;>
      (refine .ofPpu ha (by omega) ?_ rfl rfl fun _ _ => rfl
       constructor <;> intros <;> first | rfl | contradiction | exact ⟨rfl, rfl⟩)
  case h_6 h =>
    have := is h
    unfold writePpuAddr
    split <;>
      (refine .ofPpu ha (by omega) ?_ rfl rfl fun _ _ => rfl
       constructor <;> intros <;> first | rfl | contradiction | exact ⟨rfl, rfl⟩)
  case h_7 h => exact (ppuWrite_frame s a b (is h)).bumpV (is h)
  case h_8 h => exact .refl fun hc => h hc.1.2.2

/-! ### APU register writes -/

/-- A write that leaves everything but the APU. -/
theorem StoreFrame.ofApu {s : State} {a : Word} (ha : 0x4000 ≤ a.toNat) {q : Apu} (h : ApuStoreFrame s.apu q a) :
    StoreFrame s (s.setApu q) a :=
  { StoreFrame.refl (s := s) (not_reachesChr (.inr ha)) with apu := h }

theorem writeChannel_frame (s : Apu) (a : Word) (b : Byte) (h1 : 0x4000 ≤ a.toNat) (h2 : a.toNat < 0x4014) :
    ApuStoreFrame s (s.writeChannel (a.toNat % 32) b) a := by
  have unit {k : Nat} (h : a.toNat % 32 / 4 = k) : isApuUnit a k := ⟨by omega, by omega⟩
  unfold Apu.writeChannel
  split
  case h_1 h => have := unit h; constructor <;> intros <;> first | rfl | contradiction
  case h_2 h => have := unit h; constructor <;> intros <;> first | rfl | contradiction
  case h_3 h => have := unit h; constructor <;> intros <;> first | rfl | contradiction
  case h_4 h => have := unit h; constructor <;> intros <;> first | rfl | contradiction
  case h_5 h0 h1 h2 h3 =>
    simp only [imp_false] at h0 h1 h2 h3
    have := unit (k := 4) (by omega)
    constructor <;> intros <;> first | rfl | contradiction

theorem writeEnable_frame (s : Apu) (a : Word) (b : Byte) (h : a.toNat = 0x4015) :
    ApuStoreFrame s (s.writeEnable b) a := by
  constructor <;> intros <;> first | rfl | contradiction

theorem writeFrame_frame (s : Apu) (a : Word) (b : Byte) (h : a.toNat = 0x4017) :
    ApuStoreFrame s (s.writeFrame b) a := by
  unfold Apu.writeFrame
  dsimp only
  split <;> (constructor <;> intros <;> first | rfl | contradiction)

/-! ### The frame of a write -/

theorem busWriteRow_frame (s : State) (a : Word) (v : Byte) : StoreFrame s (busWriteRow s a v) a := by
  unfold busWriteRow
  split
  · rename_i h
    exact { StoreFrame.refl (s := s) (not_reachesChr (.inl h)) with
            ram := fun k hk => Cells.read_write_other _ _ fun e => hk ⟨h, e⟩ }
  split
  · exact ppuRegWrite_frame s a v ⟨by omega, by omega⟩
  have ha : 0x4000 ≤ a.toNat := by omega
  split
  · exact .ofApu ha (writeChannel_frame _ a v ha (by assumption))
  split
  · exact oamDma_frame s v a (by assumption)
  split
  · exact .ofApu ha (writeEnable_frame _ a v (by assumption))
  split
  · rename_i h
    have snap : (s.pads.writeStrobe v).snapshot1 = s.pads.snapshot1 ∧
        (s.pads.writeStrobe v).snapshot2 = s.pads.snapshot2 := by
      simp only [Pads.writeStrobe]; split <;> exact ⟨rfl, rfl⟩
    exact { StoreFrame.refl (s := s) (not_reachesChr (.inr ha)) with
            pads := fun hn => absurd h hn, snapshots := snap, shifts := fun hn => absurd h hn }
  split
  · exact .ofApu ha (writeFrame_frame _ a v (by assumption))
  split
  · exact .refl (not_reachesChr (.inr ha))
  · exact mapperCpuWrite_frame s a v (by omega)

/-- Everything a write to `a` that is not refused leaves unchanged. -/
theorem busStore_frame (s : State) (a : Word) (v : Byte) : StoreFrame s (busStore s a v) a :=
  { busWriteRow_frame (s.setDataBus v) a v with }

end Sys2Proof.Machine
end

