-- ==== Sys2Proof/Laws/Decode.lean ====
section
/-! SUPPORT. The opcode table and the encoder agree row by row; words and their bytes. -/

namespace Sys2Proof

@[simp] theorem hiByte_wordOf (hi lo : Byte) : hiByte (wordOf hi lo) = hi := by
  apply BitVec.eq_of_toNat_eq
  have h1 := hi.isLt
  have h2 := lo.isLt
  simp only [hiByte, wordOf, BitVec.extractLsb'_toNat, BitVec.toNat_append, Nat.shiftRight_eq_div_pow]
  rw [Nat.shiftLeft_eq, ← Nat.shiftLeft_eq, ← Nat.shiftLeft_add_eq_or_of_lt h2, Nat.shiftLeft_eq]
  omega

@[simp] theorem loByte_wordOf (hi lo : Byte) : loByte (wordOf hi lo) = lo := by
  apply BitVec.eq_of_toNat_eq
  have h1 := hi.isLt
  have h2 := lo.isLt
  simp only [loByte, wordOf, BitVec.extractLsb'_toNat, BitVec.toNat_append, Nat.shiftRight_eq_div_pow]
  rw [← Nat.shiftLeft_add_eq_or_of_lt h2, Nat.shiftLeft_eq]
  omega

theorem wordOf_toNat (hi lo : Byte) : (wordOf hi lo).toNat = 256 * hi.toNat + lo.toNat := by
  have h2 := lo.isLt
  simp only [wordOf, BitVec.toNat_append]
  rw [← Nat.shiftLeft_add_eq_or_of_lt h2, Nat.shiftLeft_eq]
  omega

theorem hiByte_toNat (w : Word) : (hiByte w).toNat = w.toNat / 256 := by
  have := w.isLt
  simp only [hiByte, BitVec.extractLsb'_toNat, Nat.shiftRight_eq_div_pow]
  omega

theorem loByte_toNat (w : Word) : (loByte w).toNat = w.toNat % 256 := by
  simp only [loByte, BitVec.extractLsb'_toNat, Nat.shiftRight_zero]

/-- A word is its two bytes. -/
@[simp] theorem wordOf_parts (w : Word) : wordOf (hiByte w) (loByte w) = w := by
  apply BitVec.eq_of_toNat_eq
  rw [wordOf_toNat, hiByte_toNat, loByte_toNat]
  omega

/-- What a row of the table says of the encoder. -/
def RowEncodes (r : OpRow) : Prop :=
  match r.form with
  | .f1 i => encode i = [r.opcode]
  | .f2 build => ∀ b, encode (build b) = [r.opcode, b]
  | .f3 build => ∀ w, encode (build w) = [r.opcode, loByte w, hiByte w]

/-- The encoder writes the opcode the table has, in the table's format. -/
theorem row_encodes : ∀ r ∈ opcodeTable, RowEncodes r := by
  simp only [opcodeTable, loadStoreRows, transferStackRows, logicRows, arithmeticRows, incDecRows, shiftRows,
    jumpRows, flagSystemRows, List.cons_append, List.nil_append, List.forall_mem_cons]
  repeat' apply And.intro
  all_goals first | exact rfl | exact fun _ => rfl | simp

/-- The row `formOf` finds is a row of the table with that opcode. -/
theorem formOf_row {op : Byte} {form : OpForm} (h : formOf op = some form) :
    ∃ r ∈ opcodeTable, r.opcode = op ∧ r.form = form := by
  simp only [formOf, Option.map_eq_some_iff] at h
  obtain ⟨r, hr, rfl⟩ := h
  exact ⟨r, List.mem_of_find?_eq_some hr, by simpa using List.find?_some hr, rfl⟩

end Sys2Proof
end

