-- ==== Sys2Proof/Laws/Ops.lean ====
section
/-! SUPPORT. What each shared operation of the meanings does: the stack, taking an interrupt, returning
from one, the ends of an instruction, the shapes of instruction. -/

namespace Sys2Proof.Machine

/-! ### P as a Byte -/

theorem pushed_false (p : Flags) : p.pushed false = BitVec.ofNat 8 (statusOf p) := by
  obtain ⟨c, z, i, d, v, n⟩ := p
  revert c z i d v n; decide

theorem pushed_true (p : Flags) : p.pushed true = BitVec.ofNat 8 (statusOf p + 16) := by
  obtain ⟨c, z, i, d, v, n⟩ := p
  revert c z i d v n; decide

theorem flagsOf_pushed (p : Flags) (b : Bool) : flagsOf (p.pushed b) = p := by
  obtain ⟨c, z, i, d, v, n⟩ := p
  revert c z i d v n b; decide

theorem ofByte_eq (b : Byte) : Flags.ofByte b = flagsOf b := rfl

theorem setZN_eq (p : Flags) (v : Byte) : p.setZN v = znOf p v := rfl

/-! ### Vectors -/

theorem mapperCpuRead_rom {s : State} {a : Word} (h : 0x8000 ≤ a.toNat) : mapperCpuRead s a = prgByte s a := by
  have h1 : ¬ a.toNat < 0x6000 := by omega
  have h2 : ¬ a.toNat < 0x8000 := by omega
  simp [mapperCpuRead, prgByte, h1, h2]

theorem read16_vector (s : State) (v : Word) (h : 0x8000 ≤ v.toNat) (h2 : v.toNat < 0xFFFF) :
    read16 s v = (vectorWord s v, s.setDataBus (prgByte s (v + 1#16))) := by
  have h3 : (v + 1#16).toNat = v.toNat + 1 := by simp [BitVec.toNat_add]; omega
  simp only [read16, readPair]
  rw [busRead_mapperRow (by omega : 0x4020 ≤ v.toNat)]
  simp only
  rw [busRead_mapperRow (by omega), mapperCpuRead_rom h, mapperCpuRead_rom (by omega)]
  rfl

/-! ### Interrupts -/

theorem sub_two (a : Byte) : a - 1#8 - 1#8 = a - 2#8 := by bv_omega
theorem sub_three (a : Byte) : a - 2#8 - 1#8 = a - 3#8 := by bv_omega
theorem add_two (a : Byte) : a + 1#8 + 1#8 = a + 2#8 := by bv_omega
theorem add_three (a : Byte) : a + 2#8 + 1#8 = a + 3#8 := by bv_omega

/-- The interrupt sequence through a vector in PRG ROM, whole. -/
theorem takeInterrupt_eq (s : State) (vec ret : Word) (b : Bool) (h1 : 0x8000 ≤ vec.toNat)
    (h2 : vec.toNat < 0xFFFF) :
    takeInterrupt vec ret b s =
      { s with
        ram := pushedFrame s.ram s.cpu.sp ret (s.cpu.p.pushed b)
        dataBus := prgByte s (vec + 1#16)
        cpu := { s.cpu with sp := s.cpu.sp - 3#8, p := { s.cpu.p with i := true },
                            pc := vectorWord s vec } } := by
  simp only [takeInterrupt, push16, push_eq, sub_two, sub_three]
  rw [read16_vector _ _ h1 h2]
  rfl

/-- RTI's pulls, whole. -/
theorem returnFromInterrupt_eq (s : State) :
    returnFromInterrupt s =
      { s with
        dataBus := Cells.read s.ram (0x0100 + (s.cpu.sp + 3#8).toNat)
        cpu := { s.cpu with
          sp := s.cpu.sp + 3#8
          p := flagsOf (Cells.read s.ram (0x0100 + (s.cpu.sp + 1#8).toNat))
          pc := wordOf (Cells.read s.ram (0x0100 + (s.cpu.sp + 3#8).toNat))
                  (Cells.read s.ram (0x0100 + (s.cpu.sp + 2#8).toNat)) } } := by
  simp only [returnFromInterrupt, pull16, pull_eq]
  simp only [State.setCpu, Cpu.setPc, Cpu.setP, ofByte_eq, add_two, add_three]

/-- The three Bytes a pushed frame holds. -/
theorem read_pushedFrame (ram : Memory) (sp : Byte) (ret : Word) (st : Byte) :
    Cells.read (pushedFrame ram sp ret st) (0x0100 + (sp - 2#8).toNat) = st ∧
    Cells.read (pushedFrame ram sp ret st) (0x0100 + (sp - 1#8).toNat) = loByte ret ∧
    Cells.read (pushedFrame ram sp ret st) (0x0100 + sp.toNat) = hiByte ret := by
  have h1 : (sp - 1#8).toNat ≠ (sp - 2#8).toNat := by bv_omega
  have h2 : sp.toNat ≠ (sp - 2#8).toNat := by bv_omega
  have h3 : sp.toNat ≠ (sp - 1#8).toNat := by bv_omega
  unfold pushedFrame
  refine ⟨?_, ?_, ?_⟩
  · rw [Cells.read_write_same]
  · rw [Cells.read_write_other _ _ (by omega), Cells.read_write_same]; rfl
  · rw [Cells.read_write_other _ _ (by omega), Cells.read_write_other _ _ (by omega), Cells.read_write_same]
    rfl

/-! ### The shapes of instruction -/

theorem locate_cpu (m : MemMode) (s : State) : (m.locate s).after.cpu = s.cpu := (locate_effect m s).cpu

theorem busStore_pc (s : State) (a : Word) (v : Byte) : (busStore s a v).cpu.pc = s.cpu.pc := by
  rw [(busStore_frame s a v).cpu]

/-- A reading instruction, whole. -/
theorem readOp_eq (f : Cpu → Byte → Cpu) (o : Operand) (b : Nat) (s : State) :
    readOp f o b s =
      ended (o.fetch s).after
        { f s.cpu (o.fetch s).value with
          pc := (f s.cpu (o.fetch s).value).pc + BitVec.ofNat 16 o.length }
        (b + bitNat (o.fetch s).crossed) := by
  simp only [readOp, finish, (fetch_effect o s).cpu]
  rfl

/-- A store, whole. -/
theorem storeOp_eq (value : Cpu → Byte) (m : MemMode) (base : Nat) (s : State) :
    let l := m.locate s
    let t := busStore l.after l.ea (value s.cpu)
    storeOp value m base s =
      if writeRefused s l.ea then .fault (.badAccess l.ea .write l.after)
      else .next (ended t { t.cpu with pc := past s.cpu m.length } base) := by
  simp only [storeOp]
  cases h : writeRefused s (m.locate s).ea
  · rw [busWrite_next _ (by rw [writeRefused_congr (locate_effect m s), h])]
    simp only [andThen, finish, busStore_pc, locate_cpu]
    rfl
  · rw [busWrite_fault _ (by rw [writeRefused_congr (locate_effect m s), h])]
    rfl

/-- The reads of a read-modify-write instruction. -/
theorem rmw_effect (m : MemMode) (s : State) :
    ReadEffect s (busRead (m.locate s).after (m.locate s).ea).2 :=
  (locate_effect m s).trans (busRead_effect _ _)

/-- A read-modify-write instruction, whole. -/
theorem rmwOp_eq (f : Byte → Flags → Computed) (m : MemMode) (base : Nat) (s : State) :
    let l := m.locate s
    let r := busRead l.after l.ea
    let c := f r.1 s.cpu.p
    let t := busStore r.2 l.ea c.value
    rmwOp f m base s =
      if writeRefused s l.ea then .fault (.badAccess l.ea .write r.2)
      else .next (ended t { t.cpu with p := c.flags, pc := past s.cpu m.length } base) := by
  simp only [rmwOp]
  cases h : writeRefused s (m.locate s).ea
  · rw [busWrite_next _ (by rw [writeRefused_congr (rmw_effect m s), h])]
    simp only [andThen, finish, State.setCpu_cpu, Cpu.setP, busStore_pc, (rmw_effect m s).cpu]
    rfl
  · rw [busWrite_fault _ (by rw [writeRefused_congr (rmw_effect m s), h])]
    rfl

/-- A branch, whole. -/
theorem branch_eq (cond : Bool) (d : Byte) (s : State) :
    branch cond d s = ended s (branch cond d s).cpu (branch cond d s).cyc := by
  cases cond <;> rfl

/-! ### The poll and the fetch -/

theorem pollAndRun_quiet {s : State} (h : quiet s) : pollAndRun s = cpuInstruction s := by
  obtain ⟨h1, h2⟩ := h
  unfold pollAndRun
  rw [h1]
  cases hi : s.irqLine <;> cases hp : s.cpu.p.i <;> simp_all

theorem fetchBytes_length (n : Nat) (a : Word) (s : State) : (fetchBytes n a s).1.length = n := by
  induction n generalizing a s with
  | zero => rfl
  | succ n ih => simp [fetchBytes, ih]

/-- Bytes that decode with nothing left over are as many as the opcode's fetch takes. -/
theorem decode_exact_length {op : Byte} {bs : List Byte} {i : Instr} (h : decode (op :: bs) = some (i, [])) :
    bs.length = fetchLength op - 1 := by
  simp only [decode] at h
  unfold fetchLength
  cases hf : formOf op with
  | none => simp [hf] at h
  | some form =>
    rw [hf] at h
    cases form with
    | f1 j => simp at h; simp [h.2, OpForm.length]
    | f2 b => match bs with
      | [] => simp at h
      | b1 :: bs => simp at h; simp [h.2, OpForm.length]
    | f3 b => match bs with
      | [] => simp at h
      | [_] => simp at h
      | b1 :: b2 :: bs => simp at h; simp [h.2, OpForm.length]

/-- The bytes at PC that decode to `i` make the CPU run `i` after their reads. -/
theorem cpuInstruction_of_decode {s : State} {n : Nat} {i : Instr}
    (hd : decode (fetchBytes n s.cpu.pc s).1 = some (i, [])) :
    cpuInstruction s = exec i (fetchBytes n s.cpu.pc s).2 := by
  cases n with
  | zero => simp [fetchBytes, decode] at hd
  | succ n =>
    have hl : n = fetchLength (busRead s s.cpu.pc).1 - 1 := by
      have := decode_exact_length hd
      rw [fetchBytes_length] at this
      exact this
    simp only [cpuInstruction, fetchInstr]
    rw [← hl]
    simp only [fetchBytes] at hd
    simp [hd, fetchBytes]

end Sys2Proof.Machine
end

