-- ==== Sys2Proof/Laws/Apu.lean ====
section
/-! SUPPORT. The APU's counters stay in range under every operation, and what one APU step and the DMC's
memory reader can do. -/

namespace Sys2Proof.Machine

/-! ### Frames of the clocks -/

theorem Apu.quarter_frame (a : Apu) :
    a.quarter.frame = a.frame ∧ a.quarter.dmc = a.dmc ∧ a.quarter.noise.lfsr = a.noise.lfsr ∧
      a.quarter.noise.timer = a.noise.timer ∧ a.quarter.sampleAcc = a.sampleAcc ∧
      a.quarter.cycleParity = a.cycleParity := ⟨rfl, rfl, rfl, rfl, rfl, rfl⟩

theorem Apu.half_frame (a : Apu) :
    a.half.frame = a.frame ∧ a.half.dmc = a.dmc ∧ a.half.noise.lfsr = a.noise.lfsr ∧
      a.half.noise.timer = a.noise.timer ∧ a.half.sampleAcc = a.sampleAcc ∧
      a.half.cycleParity = a.cycleParity := ⟨rfl, rfl, rfl, rfl, rfl, rfl⟩

/-- An APU whose ranged counters are those of another. -/
theorem Apu.InRange.of_eq {a b : Apu} (h : a.InRange) (h1 : b.noise.lfsr = a.noise.lfsr)
    (h2 : b.noise.timer = a.noise.timer) (h3 : b.dmc = a.dmc) (h4 : b.frame = a.frame)
    (h5 : b.sampleAcc = a.sampleAcc) : b.InRange := by
  obtain ⟨a1, a2, a3, a4, a5, a6, a7, a8⟩ := h
  constructor
  · rw [h1]; exact a1
  · rw [h3]; exact a2
  · rw [h3]; exact a3
  · rw [h3]; exact a4
  · rw [h2]; exact a5
  · rw [h3]; exact a6
  · rw [h4]; exact a7
  · rw [h5]; exact a8

theorem Apu.InRange.quarter {a : Apu} (h : a.InRange) : a.quarter.InRange :=
  h.of_eq rfl rfl rfl rfl rfl

theorem Apu.InRange.half {a : Apu} (h : a.InRange) : a.half.InRange :=
  h.of_eq rfl rfl rfl rfl rfl

/-! ### The frame counter -/

/-- The sequence restarts at exactly its length (63_apu.md R501). -/
theorem frameEvent_restart (five : Bool) (n : Nat) :
    (frameEvent five n).restart = decide (n = if five then 37282 else 29830) := by
  unfold frameEvent
  cases five <;> split <;> simp_all

/-- The frame interrupt comes at exactly one count (63_apu.md R501). -/
theorem frameEvent_irq (five : Bool) (n : Nat) :
    (frameEvent five n).irq = decide (five = false ∧ n = 29828) := by
  unfold frameEvent
  cases five <;> split <;> simp_all

/-- The half frames (63_apu.md R501). -/
theorem frameEvent_half (five : Bool) (n : Nat) :
    (frameEvent five n).half = decide (if five then n ∈ [7457, 22371] else n ∈ [14913, 29828]) := by
  unfold frameEvent
  cases five <;> split <;> simp_all

/-- The quarter frames (63_apu.md R501). -/
theorem frameEvent_quarter (five : Bool) (n : Nat) :
    (frameEvent five n).quarter =
      decide (if five then n ∈ [7457, 14913, 22371, 37281] else n ∈ [7457, 14913, 22371, 29828]) := by
  unfold frameEvent
  cases five <;> split <;> simp_all

/-- The counter and the interrupt after one clock (63_apu.md R501, R506). -/
theorem Apu.clockFrame_frame (a : Apu) :
    a.clockFrame.frame =
      { a.frame with
        fcCycle := if a.frame.fcCycle + 1 = (if a.frame.fiveStep then 37282 else 29830) then 0
                   else a.frame.fcCycle + 1
        frameIrq := a.frame.frameIrq ||
          decide (a.frame.fiveStep = false ∧ a.frame.fcCycle + 1 = 29828 ∧ a.frame.irqInhibit = false) } := by
  have e : a.clockFrame.frame =
      { a.frame with
        fcCycle := if (frameEvent a.frame.fiveStep (a.frame.fcCycle + 1)).restart then 0 else a.frame.fcCycle + 1
        frameIrq := a.frame.frameIrq ||
          ((frameEvent a.frame.fiveStep (a.frame.fcCycle + 1)).irq && !a.frame.irqInhibit) } := by
    unfold Apu.clockFrame
    dsimp only
    split <;> split <;> rfl
  rw [e, frameEvent_restart, frameEvent_irq]
  simp only [decide_eq_true_eq]
  congr 2
  cases a.frame.irqInhibit <;> cases a.frame.fiveStep <;> simp

theorem Apu.clockFrame_rest (a : Apu) :
    a.clockFrame.dmc = a.dmc ∧ a.clockFrame.noise.lfsr = a.noise.lfsr ∧
      a.clockFrame.noise.timer = a.noise.timer ∧ a.clockFrame.sampleAcc = a.sampleAcc ∧
      a.clockFrame.cycleParity = a.cycleParity := by
  unfold Apu.clockFrame
  dsimp only
  split <;> split <;> exact ⟨rfl, rfl, rfl, rfl, rfl⟩

theorem Apu.InRange.clockFrame {a : Apu} (h : a.InRange) : a.clockFrame.InRange := by
  obtain ⟨r1, r2, r3, r4, _⟩ := a.clockFrame_rest
  have hf := a.clockFrame_frame
  obtain ⟨a1, a2, a3, a4, a5, a6, a7, a8⟩ := h
  constructor
  · rw [r2]; exact a1
  · rw [r1]; exact a2
  · rw [r1]; exact a3
  · rw [r1]; exact a4
  · rw [r3]; exact a5
  · rw [r1]; exact a6
  · rw [hf]
    dsimp only
    cases hm : a.frame.fiveStep <;> simp only [hm, Bool.false_eq_true, if_false, if_true] at a7 ⊢
    · split <;> omega
    · split <;> omega
  · rw [r4]; exact a8

/-! ### The timers -/

/-- The noise register never becomes 0 (63_apu.md R533). -/
theorem lfsrNext_ne_zero {l : BitVec 15} (mode : Bool) (h : l ≠ 0#15) : lfsrNext l mode ≠ 0#15 := by
  intro e
  apply h
  have bits : ∀ k, (lfsrNext l mode).getLsbD k = false := by intro k; rw [e]; simp
  have hi : ∀ k, k < 14 → l.getLsbD (k + 1) = false := by
    intro k hk
    have := bits k
    simp only [lfsrNext, bitAt, BitVec.getLsbD_or, BitVec.getLsbD_ushiftRight, BitVec.getLsbD_shiftLeft,
      Bool.or_eq_false_iff] at this
    rw [Nat.add_comm]; exact this.1
  have fb := bits 14
  have h1 := hi 0 (by omega)
  have h6 := hi 5 (by omega)
  have h0 : l.getLsbD 0 = false := by
    simp only [lfsrNext, bitAt, bit, BitVec.getLsbD_or, BitVec.getLsbD_ushiftRight, BitVec.getLsbD_shiftLeft,
      Bool.or_eq_false_iff] at fb
    have := fb.2
    simp only [Nat.zero_add, Nat.reduceAdd] at h1 h6
    cases mode <;> simpa [-BitVec.getLsbD_eq_getElem, h1, h6] using this
  apply BitVec.eq_of_getLsbD_eq
  intro k hk
  cases k with
  | zero => rw [h0]; simp
  | succ k => rw [hi k (by omega)]; simp

theorem noisePeriods_lt (k : BitVec 4) : noisePeriods.getD k.toNat 0 - 1 < 4068 := by
  revert k; decide

theorem dmcRates_lt (k : BitVec 4) : dmcRates.getD k.toNat 0 - 1 < 428 := by
  revert k; decide

/-- What the DMC's output unit keeps, and its range (63_apu.md R544). -/
theorem Dmc.clockTimer_spec (d : Dmc) :
    d.clockTimer.bytesRemaining = d.bytesRemaining ∧ d.clockTimer.curAddr = d.curAddr ∧
      d.clockTimer.sampleAddr = d.sampleAddr ∧ d.clockTimer.irqFlag = d.irqFlag ∧
      (d.timer < 428 → d.clockTimer.timer < 428) ∧
      (1 ≤ d.bitsRemaining ∧ d.bitsRemaining ≤ 8 →
        1 ≤ d.clockTimer.bitsRemaining ∧ d.clockTimer.bitsRemaining ≤ 8) := by
  have hr := dmcRates_lt d.rateIndex
  unfold Dmc.clockTimer
  dsimp only
  split
  · split
    · split
      · exact ⟨rfl, rfl, rfl, rfl, fun _ => hr, fun _ => ⟨by show 1 ≤ 8; omega, le_refl 8⟩⟩
      · exact ⟨rfl, rfl, rfl, rfl, fun _ => hr, fun _ => ⟨by show 1 ≤ 8; omega, le_refl 8⟩⟩
    · rename_i h
      refine ⟨rfl, rfl, rfl, rfl, fun _ => hr, fun hb => ⟨?_, ?_⟩⟩
      · show 1 ≤ d.bitsRemaining - 1; omega
      · show d.bitsRemaining - 1 ≤ 8; omega
  · refine ⟨rfl, rfl, rfl, rfl, fun h => ?_, fun hb => hb⟩
    show d.timer - 1 < 428; omega

theorem Apu.InRange.clockTimers {a : Apu} (h : a.InRange) : a.clockTimers.InRange := by
  obtain ⟨a1, a2, a3, a4, a5, a6, a7, a8⟩ := h
  obtain ⟨d1, d2, d3, _, d5, d6⟩ := a.dmc.clockTimer_spec
  constructor
  · show (a.noise.clockTimer).lfsr ≠ 0#15
    unfold Noise.clockTimer
    split
    · exact lfsrNext_ne_zero _ a1
    · exact a1
  · exact d6 a2
  · show 0xC000 ≤ a.dmc.clockTimer.sampleAddr.toNat; rw [d3]; exact a3
  · show a.dmc.clockTimer.bytesRemaining ≠ 0#12 → 0x8000 ≤ a.dmc.clockTimer.curAddr.toNat
    rw [d1, d2]; exact a4
  · show (a.noise.clockTimer).timer < 4068
    unfold Noise.clockTimer
    split
    · exact noisePeriods_lt _
    · show a.noise.timer - 1 < 4068; omega
  · exact d5 a6
  · exact a7
  · exact a8

theorem Apu.InRange.resample {a : Apu} (h : a.InRange) : a.resample.InRange := by
  obtain ⟨a1, a2, a3, a4, a5, a6, a7, a8⟩ := h
  unfold Apu.resample
  dsimp only
  have e1 : Config.cpuHz = 1789773 := rfl
  have e2 : Config.sampleHz = 44100 := rfl
  split
  · exact ⟨a1, a2, a3, a4, a5, a6, a7, by dsimp only; omega⟩
  · exact ⟨a1, a2, a3, a4, a5, a6, a7, by dsimp only; omega⟩

theorem Apu.resample_kept (a : Apu) :
    a.resample = { a with sampleAcc := a.resample.sampleAcc, samples := a.resample.samples } := by
  unfold Apu.resample
  dsimp only
  split <;> rfl

/-! ### The memory reader -/

theorem sub_one_toNat {c : BitVec 12} (h : c ≠ 0#12) : (c - 1#12).toNat + 1 = c.toNat := by
  have : c.toNat ≠ 0 := fun e => h (BitVec.eq_of_toNat_eq e)
  have := c.isLt
  rw [BitVec.toNat_sub]
  simp; omega

/-- The DMC after a fetch, whole (63_apu.md R545, R547). -/
theorem Dmc.fetched_eq (d : Dmc) (b : Byte) :
    d.fetched b =
      let left := d.bytesRemaining - 1#12
      { d with
        buffer := b
        bufferFull := true
        curAddr := if left = 0#12 ∧ d.loop = true then d.sampleAddr
                   else if d.curAddr = 0xFFFF#16 then 0x8000#16 else d.curAddr + 1#16
        bytesRemaining := if left = 0#12 ∧ d.loop = true then d.sampleLen else left
        irqFlag := d.irqFlag || decide (left = 0#12 ∧ d.loop = false ∧ d.irqEnable = true) } := by
  unfold Dmc.fetched
  dsimp only
  by_cases h : d.bytesRemaining - 1#12 = 0#12
  · cases hl : d.loop <;> cases he : d.irqEnable <;> simp [h]
  · simp [h]

theorem Apu.InRange.fetched {a : Apu} (h : a.InRange) (hb : a.dmc.bytesRemaining ≠ 0#12) (b : Byte) :
    Apu.InRange { a with dmc := a.dmc.fetched b } := by
  obtain ⟨a1, a2, a3, a4, a5, a6, a7, a8⟩ := h
  rw [Dmc.fetched_eq]
  refine ⟨a1, a2, a3, ?_, a5, a6, a7, a8⟩
  intro _
  dsimp only
  split
  · omega
  · have := a4 hb
    have hlt := a.dmc.curAddr.isLt
    split
    · decide
    · rename_i hne
      have : a.dmc.curAddr.toNat ≠ 0xFFFF := fun e => hne (BitVec.eq_of_toNat_eq e)
      rw [BitVec.toNat_add]; simp; omega

/-- The memory reader, whole: what it reads is PRG ROM (63_apu.md R545). -/
theorem dmcReader_eq {s : State} (h : s.apu.InRange) :
    dmcReader s =
      if s.apu.dmc.wantsByte then
        { s with
          dataBus := prgByte s s.apu.dmc.curAddr
          pendingStall := s.pendingStall + s.params.dmcStall
          apu := { s.apu with dmc := s.apu.dmc.fetched (prgByte s s.apu.dmc.curAddr) } }
      else s := by
  unfold dmcReader
  split
  · rename_i hw
    have hb : s.apu.dmc.bytesRemaining ≠ 0#12 := by
      simp only [Dmc.wantsByte, Bool.and_eq_true, decide_eq_true_eq] at hw; exact hw.2
    have ha := h.curAddr hb
    rw [busRead_mapperRow (by omega), mapperCpuRead_rom ha]
    rfl
  · rfl

/-! ### A whole APU step -/

/-- What a number of APU steps keep, from any state at all. -/
structure ApuKeeps (n : Nat) (s t : State) : Prop where
  cpu : t.cpu = s.cpu
  ram : t.ram = s.ram
  board : t.board = s.board
  cart : t.cart = s.cart
  params : t.params = s.params
  cyc : t.cyc = s.cyc
  banks : t.mapper.banks = s.mapper.banks
  parity : t.apu.cycleParity = (s.apu.cycleParity ^^ decide (n % 2 = 1))
  stall : ∃ k ≤ n, t.pendingStall = s.pendingStall + k * s.params.dmcStall

theorem odd_add (n m : Nat) : decide ((n + m) % 2 = 1) = (decide (n % 2 = 1) ^^ decide (m % 2 = 1)) := by
  rcases Nat.mod_two_eq_zero_or_one n with hn | hn <;> rcases Nat.mod_two_eq_zero_or_one m with hm | hm
  · simp [hn, hm, (by omega : (n + m) % 2 = 0)]
  · simp [hn, hm, (by omega : (n + m) % 2 = 1)]
  · simp [hn, hm, (by omega : (n + m) % 2 = 1)]
  · simp [hn, hm, (by omega : (n + m) % 2 = 0)]

theorem ApuKeeps.trans {n m : Nat} {s t u : State} (h : ApuKeeps n s t) (h' : ApuKeeps m t u) :
    ApuKeeps (n + m) s u where
  cpu := h'.cpu.trans h.cpu
  ram := h'.ram.trans h.ram
  board := h'.board.trans h.board
  cart := h'.cart.trans h.cart
  params := h'.params.trans h.params
  cyc := h'.cyc.trans h.cyc
  banks := h'.banks.trans h.banks
  parity := by rw [h'.parity, h.parity, odd_add, Bool.xor_assoc]
  stall := by
    obtain ⟨k1, hk1, e1⟩ := h.stall
    obtain ⟨k2, hk2, e2⟩ := h'.stall
    exact ⟨k1 + k2, by omega, by rw [e2, e1, h.params, Nat.add_mul]; omega⟩

/-- What a number of APU steps can do, from a state whose APU is in range. -/
structure ApuFrame (n : Nat) (s t : State) : Prop where
  rest : t = { s with apu := t.apu, dataBus := t.dataBus, pendingStall := t.pendingStall }
  inRange : t.apu.InRange
  parity : t.apu.cycleParity = (s.apu.cycleParity ^^ decide (n % 2 = 1))
  stall : ∃ k ≤ n, t.pendingStall = s.pendingStall + k * s.params.dmcStall

/-- The part of an APU step after the memory reader flips the parity. -/
theorem Apu.clocked_parity (a : Apu) : a.clockFrame.clockTimers.resample.cycleParity = !a.cycleParity := by
  rw [Apu.resample_kept]
  show (!(Apu.clockFrame a).cycleParity) = _
  rw [(Apu.clockFrame_rest a).2.2.2.2]

theorem ApuFrame.trans {n m : Nat} {s t u : State} (h : ApuFrame n s t) (h' : ApuFrame m t u) :
    ApuFrame (n + m) s u where
  rest := by rw [h'.rest, h.rest]
  inRange := h'.inRange
  parity := by rw [h'.parity, h.parity, odd_add, Bool.xor_assoc]
  stall := by
    obtain ⟨k1, hk1, e1⟩ := h.stall
    obtain ⟨k2, hk2, e2⟩ := h'.stall
    have hp : t.params = s.params := by rw [h.rest]
    exact ⟨k1 + k2, by omega, by rw [e2, e1, hp, Nat.add_mul]; omega⟩

theorem apuStep_keeps (s : State) : ApuKeeps 1 s (apuStep s) := by
  unfold apuStep dmcReader
  dsimp only
  split
  · have hr := busRead_effect s s.apu.dmc.curAddr
    generalize busRead s s.apu.dmc.curAddr = r at hr ⊢
    have hp := Apu.clocked_parity { r.2.apu with dmc := r.2.apu.dmc.fetched r.1 }
    simp only [State.setPendingStall_apu, State.setApu_apu]
    generalize Apu.resample _ = a at hp ⊢
    refine ⟨hr.cpu, hr.ram, hr.board, hr.cart, hr.params, hr.cyc, hr.mapper, ?_, ⟨1, le_refl 1, ?_⟩⟩
    · simp only [State.setApu_apu, hp]
      rw [hr.apu]; simp
    · simp [hr.pendingStall, hr.params]
  · have hp := Apu.clocked_parity s.apu
    generalize Apu.resample _ = a at hp ⊢
    exact ⟨rfl, rfl, rfl, rfl, rfl, rfl, rfl, by simp [hp], ⟨0, by omega, by simp⟩⟩

/-- What a number of APU steps keep. -/
theorem apuRun_keeps (n : Nat) (s : State) : ApuKeeps n s (apuRun n s) := by
  induction n generalizing s with
  | zero => exact ⟨rfl, rfl, rfl, rfl, rfl, rfl, rfl, by simp [apuRun], ⟨0, le_refl 0, by simp [apuRun]⟩⟩
  | succ n ih =>
    rw [Nat.add_comm]
    exact (apuStep_keeps s).trans (by rw [Nat.add_comm]; exact ih _)

theorem apuStep_frame {s : State} (h : s.apu.InRange) : ApuFrame 1 s (apuStep s) := by
  unfold apuStep
  dsimp only
  rw [dmcReader_eq h]
  split
  · rename_i hw
    have hb : s.apu.dmc.bytesRemaining ≠ 0#12 := by
      simp only [Dmc.wantsByte, Bool.and_eq_true, decide_eq_true_eq] at hw; exact hw.2
    have hi := (h.fetched hb (prgByte s s.apu.dmc.curAddr)).clockFrame.clockTimers.resample
    have hp := Apu.clocked_parity { s.apu with dmc := s.apu.dmc.fetched (prgByte s s.apu.dmc.curAddr) }
    dsimp only
    generalize Apu.resample _ = r at hi hp ⊢
    exact ⟨rfl, hi, by simp [hp], ⟨1, le_refl 1, by simp⟩⟩
  · have hi := h.clockFrame.clockTimers.resample
    have hp := Apu.clocked_parity s.apu
    generalize Apu.resample _ = r at hi hp ⊢
    exact ⟨rfl, hi, by simp [hp], ⟨0, by omega, by simp⟩⟩

/-- Everything a number of APU steps can do. -/
theorem apuRun_frame (n : Nat) {s : State} (h : s.apu.InRange) : ApuFrame n s (apuRun n s) := by
  induction n generalizing s with
  | zero => exact ⟨rfl, h, by simp [apuRun], ⟨0, le_refl 0, by simp [apuRun]⟩⟩
  | succ n ih =>
    have h1 := apuStep_frame h
    rw [Nat.add_comm]
    exact h1.trans (by rw [Nat.add_comm]; exact ih h1.inRange)

end Sys2Proof.Machine
end

