-- ==== Sys2Proof/Laws/Bits.lean ====
section
/-! SUPPORT. The bits of a field written into a value. -/

namespace Sys2Proof

/-- Each bit after a field write: inside the field the new value's, outside the old one's. -/
theorem getLsbD_putField {n k : Nat} (v : BitVec n) (lo : Nat) (f : BitVec k) (i : Nat) :
    (putField v lo f).getLsbD i =
      if lo ≤ i ∧ i < lo + k then decide (i < n) && f.getLsbD (i - lo) else v.getLsbD i := by
  simp only [putField, BitVec.getLsbD_or, BitVec.getLsbD_and, BitVec.getLsbD_not, BitVec.getLsbD_shiftLeft,
    BitVec.getLsbD_setWidth, BitVec.getLsbD_allOnes]
  by_cases h1 : i < n
  · by_cases h2 : i < lo
    · have h3 : ¬ (lo ≤ i ∧ i < lo + k) := by omega
      simp [h1, h2, h3]
    · have h4 : i - lo < n := by omega
      by_cases h5 : i < lo + k
      · have h3 : lo ≤ i ∧ i < lo + k := by omega
        have h6 : i - lo < k := by omega
        simp [h1, h2, h3, h4, h6]
      · have h3 : ¬ (lo ≤ i ∧ i < lo + k) := by omega
        have h6 : ¬ (i - lo < k) := by omega
        have h7 : f.getLsbD (i - lo) = false := BitVec.getLsbD_of_ge _ _ (by omega)
        simp [h1, h2, h3, h4, h6, h7]
  · have : v.getLsbD i = false := BitVec.getLsbD_of_ge _ _ (by omega)
    simp [h1, this]

/-- A value with the right bits is the value with the field written. -/
theorem putField_bits {n k : Nat} (v : BitVec n) (lo : Nat) (f : BitVec k) {r : BitVec n}
    (h : ∀ i, i < n → r.getLsbD i = if lo ≤ i ∧ i < lo + k then f.getLsbD (i - lo) else v.getLsbD i) :
    putField v lo f = r := by
  apply BitVec.eq_of_getLsbD_eq
  intro i hi
  rw [getLsbD_putField, h i hi]
  simp [hi]

end Sys2Proof
end

