-- ==== Sys2Proof/Laws/Exec.lean ====
section
/-! SUPPORT. Every instruction, by its shape, is one of the shared operations: said once, so that a claim
about all instructions is a case analysis over nine shapes. -/

namespace Sys2Proof.Machine

/-- What an instruction of a shape does. -/
def ShapeSays (sh : Shape) (s : State) (r : Result) : Prop :=
  match sh with
  | .reads o => ∃ f base, r = .next (readOp f o base s) ∧
      ∀ c v, (f c v).sp = c.sp ∧ (f c v).pc = c.pc ∧ (f c v).cycles = c.cycles ∧
        (f c v).nmiPending = c.nmiPending
  | .stores m => ∃ value base, r = storeOp value m base s
  | .modifies m => ∃ f base, r = rmwOp f m base s ∧
      ∀ b p, (f b p).flags.i = p.i ∧ (f b p).flags.d = p.d ∧ (f b p).flags.v = p.v
  | .accumulator => ∃ f, r = .next (accOp f 2 s)
  | .registers => ∃ f, r = .next (registerOp 2 f s) ∧
      ∀ c, (f c).pc = c.pc ∧ (f c).cycles = c.cycles ∧ (f c).nmiPending = c.nmiPending
  | .pushes => ∃ ram bus sp p pc cyc, (Memory.wf 2048 s.ram → Memory.wf 2048 ram) ∧ r = .next
      { s with ram := ram, dataBus := bus, cpu := { s.cpu with sp := sp, p := p, pc := pc }, cyc := cyc }
  | .pulls => ∃ bus a sp p pc cyc, r = .next
      { s with dataBus := bus, cpu := { s.cpu with a := a, sp := sp, p := p, pc := pc }, cyc := cyc }
  | .jumps => ∃ target cyc u, r = .next (jumpTo target cyc u) ∧ ReadEffect s u
  | .branches => ∃ cond d, r = .next (branch cond d s)

/-- A stack write keeps RAM canonical. -/
theorem stackWrite_wf {m : Memory} (h : Memory.wf 2048 m) (sp v : Byte) :
    Memory.wf 2048 (Cells.write m (0x0100 + sp.toNat) v) :=
  Cells.write_wf v (by have := sp.isLt; omega) h

theorem pushedFrame_wf {m : Memory} (h : Memory.wf 2048 m) (sp : Byte) (ret : Word) (st : Byte) :
    Memory.wf 2048 (pushedFrame m sp ret st) :=
  stackWrite_wf (stackWrite_wf (stackWrite_wf h _ _) _ _) _ _

/-- Every instruction does what its shape says. -/
theorem exec_shape (i : Instr) (s : State) : ShapeSays (shapeOf i) s (exec i s) := by
  cases i
  case pha =>
    exact ⟨_, _, _, _, _, _, fun h => stackWrite_wf h _ _, by simp only [exec, execPha, push_eq]; rfl⟩
  case php =>
    exact ⟨_, _, _, _, _, _, fun h => stackWrite_wf h _ _, by simp only [exec, execPhp, push_eq]; rfl⟩
  case jsr a =>
    exact ⟨_, _, _, _, _, _, fun h => stackWrite_wf (stackWrite_wf h _ _) _ _, by
      simp only [exec, execJsr, push16, push_eq]; rfl⟩
  case brk =>
    exact ⟨_, _, _, _, _, _, fun h => pushedFrame_wf h _ _ _, by
      simp only [exec, execBrk]; rw [takeInterrupt_eq _ _ _ _ (by decide) (by decide)]; rfl⟩
  case pla => exact ⟨_, _, _, _, _, _, by simp only [exec, execPla, pull_eq]; rfl⟩
  case plp => exact ⟨_, _, _, _, _, _, by simp only [exec, execPlp, pull_eq]; rfl⟩
  case rts => exact ⟨_, _, _, _, _, _, by simp only [exec, execRts, pull16, pull_eq]; rfl⟩
  case rti => exact ⟨_, _, _, _, _, _, by simp only [exec, execRti, returnFromInterrupt_eq]; rfl⟩
  case jmpAbs a => exact ⟨_, _, _, rfl, ReadEffect.refl s⟩
  case jmpInd a => exact ⟨_, _, _, rfl, readPair_effect s _ _⟩
  all_goals first
    | exact ⟨_, _, rfl⟩
    | exact ⟨_, rfl⟩
    | exact ⟨_, _, rfl, fun _ _ => ⟨rfl, rfl, rfl, rfl⟩⟩
    | exact ⟨_, _, rfl, fun _ _ => ⟨rfl, rfl, rfl⟩⟩
    | exact ⟨_, rfl, fun _ => ⟨rfl, rfl, rfl⟩⟩

/-- An opcode admitted by UNOFFICIAL_NOPS reads its pointers and moves PC, nothing else. -/
theorem execUnofficialNop_eq (form : NopForm) (a b : Byte) (s : State) :
    ∃ u n, ReadEffect s u ∧ execUnofficialNop form a b s =
      .next (ended u { s.cpu with pc := past s.cpu (1 + nopOperandBytes form.mode) } n) := by
  have hr : ReadEffect s (nopCrossed form.mode a b s).2 := by
    unfold nopCrossed
    dsimp only
    split <;> first
      | exact ReadEffect.refl s
      | exact locate_effect _ s
      | exact readPair_effect s _ _
  refine ⟨_, form.cycles + bitNat (form.pageFlag && (nopCrossed form.mode a b s).1), hr, ?_⟩
  simp only [execUnofficialNop, finish, hr.cpu]
  rfl

end Sys2Proof.Machine
end

