-- ==== Sys2Proof/Laws/Ppu.lean ====
section
/-! SUPPORT. Everything one PPU dot can do: the stages between the flag events and the advance of the
position say once what they leave alone, and a whole dot is composed of them. -/

namespace Sys2Proof.Machine

/-- What the pixel, background, scroll and sprite stages of a dot can do. -/
structure Stage (s t : State) : Prop where
  rest : t = { s with ppu := t.ppu, mapper := t.mapper }
  banks : t.mapper.banks = s.mapper.banks
  kept : t.ppu = { s.ppu with
    v := t.ppu.v, spriteZeroHit := t.ppu.spriteZeroHit, spriteOverflow := t.ppu.spriteOverflow,
    secondaryOam := t.ppu.secondaryOam, spriteCount := t.ppu.spriteCount,
    spriteZeroNext := t.ppu.spriteZeroNext, spriteZeroLine := t.ppu.spriteZeroLine,
    bgShiftLo := t.ppu.bgShiftLo, bgShiftHi := t.ppu.bgShiftHi, atShiftLo := t.ppu.atShiftLo,
    atShiftHi := t.ppu.atShiftHi, atLatch := t.ppu.atLatch, ntLatch := t.ppu.ntLatch,
    atFetch := t.ppu.atFetch, patLoLatch := t.ppu.patLoLatch, patHiLatch := t.ppu.patHiLatch,
    sprites := t.ppu.sprites, frameBuffer := t.ppu.frameBuffer }
  count : s.ppu.spriteCount ≤ 8 → t.ppu.spriteCount ≤ 8
  secondary : Memory.wf 32 s.ppu.secondaryOam → Memory.wf 32 t.ppu.secondaryOam
  picture : Cells.wf 61440 s.ppu.frameBuffer → Cells.wf 61440 t.ppu.frameBuffer
  prerender : s.ppu.scanline = -1 →
    t.ppu.spriteZeroHit = s.ppu.spriteZeroHit ∧ t.ppu.spriteOverflow = s.ppu.spriteOverflow
  idle : s.ppu.rendering = false → t.ppu.v = s.ppu.v ∧ t.mapper = s.mapper

theorem Stage.refl (s : State) : Stage s s := by
  constructor <;> first | rfl | exact id | exact fun _ => ⟨rfl, rfl⟩

theorem Stage.scanline {s t : State} (h : Stage s t) : t.ppu.scanline = s.ppu.scanline := by rw [h.kept]
theorem Stage.dot {s t : State} (h : Stage s t) : t.ppu.dot = s.ppu.dot := by rw [h.kept]
theorem Stage.mask {s t : State} (h : Stage s t) : t.ppu.mask = s.ppu.mask := by rw [h.kept]
theorem Stage.frame {s t : State} (h : Stage s t) : t.ppu.frame = s.ppu.frame := by rw [h.kept]
theorem Stage.oddFrame {s t : State} (h : Stage s t) : t.ppu.oddFrame = s.ppu.oddFrame := by rw [h.kept]
theorem Stage.nmiOccurred {s t : State} (h : Stage s t) : t.ppu.nmiOccurred = s.ppu.nmiOccurred := by
  rw [h.kept]
theorem Stage.rendering {s t : State} (h : Stage s t) : t.ppu.rendering = s.ppu.rendering := by
  simp only [Ppu.rendering, h.mask]
theorem Stage.cpu {s t : State} (h : Stage s t) : t.cpu = s.cpu := by rw [h.rest]

theorem Stage.trans {s t u : State} (h : Stage s t) (h' : Stage t u) : Stage s u where
  rest := by rw [h'.rest, h.rest]
  banks := h'.banks.trans h.banks
  kept := by rw [h'.kept, h.kept]
  count := h'.count ∘ h.count
  secondary := h'.secondary ∘ h.secondary
  picture := h'.picture ∘ h.picture
  prerender := fun e =>
    have a := h.prerender e
    have b := h'.prerender (h.scanline.trans e)
    ⟨b.1.trans a.1, b.2.trans a.2⟩
  idle := fun e =>
    have a := h.idle e
    have b := h'.idle (h.rendering.trans e)
    ⟨b.1.trans a.1, b.2.trans a.2⟩

/-! ### Pixel output -/

theorem pixelOutput_stage (s : State) : Stage s (s.setPpu (pixelOutput s.ppu)) := by
  unfold pixelOutput
  split
  · rename_i h
    simp only [Ppu.visible, Bool.and_eq_true, decide_eq_true_eq] at h
    constructor
    case picture =>
      intro hw
      exact Cells.write_wf _ (by omega) hw
    case prerender => intro e; omega
    all_goals first | rfl | exact id | exact fun _ => ⟨rfl, rfl⟩
  · exact Stage.refl s

/-! ### Background -/

/-- A PPU read is its byte and the mapper's notification, which moves no bank. -/
theorem ppuRead_mapper (s : State) (a : VAddr) :
    (ppuRead s a).2 = s.setMapper (ppuRead s a).2.mapper ∧ (ppuRead s a).2.mapper.banks = s.mapper.banks :=
  ⟨ppuRead_state s a, (ppuRead_effect s a).mapper⟩

theorem background_stage (s : State) : Stage s (background s) := by
  unfold background
  split
  · rename_i h
    have hr : s.ppu.rendering = true := by
      simp only [Ppu.renderLine, Bool.and_eq_true] at h; exact h.1.1.1
    have key : ∀ u : State, u.ppu.rendering = true → Stage u (fetchBackground u) := by
      intro u hu
      unfold fetchBackground
      split
      all_goals first
        | exact Stage.refl u
        | (generalize hq : ppuRead u _ = q
           obtain ⟨h1, h2⟩ := (hq ▸ ppuRead_mapper u _ : q.2 = u.setMapper q.2.mapper ∧
             q.2.mapper.banks = u.mapper.banks)
           have hp : q.2.ppu = u.ppu := by rw [h1]; rfl
           constructor
           case rest => dsimp only; rw [h1]; rfl
           case banks => exact h2
           case idle => intro e; rw [e] at hu; cases hu
           all_goals simp only [State.setPpu_ppu, hp, and_self, implies_true, imp_self])
        | (constructor
           case idle => intro e; rw [e] at hu; cases hu
           all_goals first | rfl | exact id | exact fun _ => ⟨rfl, rfl⟩)
    have h1 : Stage s (s.setPpu (shiftBackground s.ppu)) := by
      constructor <;> first | rfl | exact id | exact fun _ => ⟨rfl, rfl⟩
    exact h1.trans (key _ hr)
  · exact Stage.refl s

/-! ### Updates of `v` -/

theorem copyScroll_stage (s : State) : Stage s (s.setPpu (copyScroll s.ppu)) := by
  unfold copyScroll
  split
  · rename_i h
    simp only [Ppu.renderLine, Bool.and_eq_true] at h
    constructor
    case idle => intro e; rw [e] at h; exact absurd h.1.1.1 (by simp)
    all_goals first | rfl | exact id | exact fun _ => ⟨rfl, rfl⟩
  split
  · rename_i h
    simp only [Ppu.renderLine, Bool.and_eq_true] at h
    constructor
    case idle => intro e; rw [e] at h; exact absurd h.1.1.1.1.1 (by simp)
    all_goals first | rfl | exact id | exact fun _ => ⟨rfl, rfl⟩
  · exact Stage.refl s

/-! ### Sprites -/

theorem copySprite_wf {oam secondary : Memory} {n count : Nat} (h : count < 8) (hw : Memory.wf 32 secondary) :
    Memory.wf 32 (copySprite oam n count secondary) := by
  unfold copySprite
  exact Cells.write_wf _ (by omega) (Cells.write_wf _ (by omega) (Cells.write_wf _ (by omega)
    (Cells.write_wf _ (by omega) hw)))

theorem selectSprites_inv (oam : Memory) (line : Int) (h fuel : Nat) (e : Selection) (hc : e.count ≤ 8)
    (hw : Memory.wf 32 e.secondary) :
    (selectSprites oam line h fuel e).count ≤ 8 ∧ Memory.wf 32 (selectSprites oam line h fuel e).secondary := by
  induction fuel generalizing e with
  | zero => exact ⟨hc, hw⟩
  | succ fuel ih =>
    unfold selectSprites
    split
    · rename_i hlt
      apply ih
      · split
        · show e.count + 1 ≤ 8; omega
        · exact hc
      · split
        · exact copySprite_wf hlt.2 hw
        · exact hw
    · exact ⟨hc, hw⟩

theorem selectSprites_count (oam : Memory) (line : Int) (h fuel : Nat) (e : Selection) (hc : e.count ≤ 8) :
    (selectSprites oam line h fuel e).count ≤ 8 := by
  induction fuel generalizing e with
  | zero => exact hc
  | succ fuel ih =>
    unfold selectSprites
    split
    · rename_i hlt
      apply ih
      split
      · show e.count + 1 ≤ 8; omega
      · exact hc
    · exact hc

theorem fill_wf : Memory.wf 32 (Cells.ofList (List.replicate 32 0xFF#8)) := by decide

theorem spritePipeline_stage (s : State) : Stage s (spritePipeline s) := by
  unfold spritePipeline
  dsimp only
  split
  · exact Stage.refl s
  rename_i hr
  have hr : s.ppu.rendering = true := by
    simp only [Bool.not_eq_true', Bool.not_eq_false, Ppu.renderLine, Bool.and_eq_true] at hr; exact hr.1.1
  have off {p : Prop} : s.ppu.rendering = false → p := fun e => by rw [e] at hr; cases hr
  split
  · unfold clearSecondary
    dsimp only
    split
    · constructor
      case count => exact fun _ => Nat.zero_le 8
      case secondary => exact fun _ => fill_wf
      all_goals first | rfl | exact id | exact fun _ => ⟨rfl, rfl⟩
    · constructor
      case secondary => exact fun _ => fill_wf
      all_goals first | rfl | exact id | exact fun _ => ⟨rfl, rfl⟩
  split
  · rename_i hd
    constructor
    case count => intro _; exact selectSprites_count _ _ _ _ _ (Nat.zero_le 8)
    case secondary => intro hw; exact (selectSprites_inv _ _ _ _ _ (Nat.zero_le 8) hw).2
    case prerender => intro e; exact absurd e hd.2
    all_goals first | rfl | exact id | exact fun _ => ⟨rfl, rfl⟩
  split
  · constructor <;> first | rfl | exact id | exact fun _ => ⟨rfl, rfl⟩
  split
  · split
    · unfold fetchSpriteLow
      generalize hq : ppuRead s _ = q
      obtain ⟨h1, h2⟩ := (hq ▸ ppuRead_mapper s _ : q.2 = s.setMapper q.2.mapper ∧
        q.2.mapper.banks = s.mapper.banks)
      have hp : q.2.ppu = s.ppu := by rw [h1]; rfl
      constructor
      case rest => dsimp only; rw [h1]; rfl
      case banks => exact h2
      case idle => exact off
      all_goals simp only [State.setPpu_ppu, hp, and_self, implies_true, imp_self]
    split
    · unfold fetchSpriteHigh
      generalize hq : ppuRead s _ = q
      obtain ⟨h1, h2⟩ := (hq ▸ ppuRead_mapper s _ : q.2 = s.setMapper q.2.mapper ∧
        q.2.mapper.banks = s.mapper.banks)
      have hp : q.2.ppu = s.ppu := by rw [h1]; rfl
      constructor
      case rest => dsimp only; rw [h1]; rfl
      case banks => exact h2
      case idle => exact off
      all_goals simp only [State.setPpu_ppu, hp, and_self, implies_true, imp_self]
    · exact Stage.refl s
  · exact Stage.refl s

/-- The stages of a dot between the flag events and the advance of the position. -/
def dotStages (s : State) : State :=
  let s := background (s.setPpu (pixelOutput s.ppu))
  spritePipeline (s.setPpu (copyScroll s.ppu))

theorem dotStages_stage (s : State) : Stage s (dotStages s) :=
  (((pixelOutput_stage s).trans (background_stage _)).trans (copyScroll_stage _)).trans (spritePipeline_stage _)

theorem ppuStep_eq (s : State) :
    ppuStep s = (dotStages (flagEvents s)).setPpu (advancePosition (dotStages (flagEvents s)).ppu) := rfl

/-! ### Flag events -/

/-- The flag events, whole. -/
theorem flagEvents_eq (s : State) :
    flagEvents s =
      { s with
        cpu := { s.cpu with
          nmiPending := s.cpu.nmiPending || decide (s.ppu.scanline = 241 ∧ s.ppu.dot = 1 ∧ s.ppu.ctrl.getLsbD 7 = true ∧
            s.ppu.nmiOccurred = false) }
        ppu := { s.ppu with
          nmiOccurred := if s.ppu.scanline = 241 ∧ s.ppu.dot = 1 then true
            else if s.ppu.scanline = -1 ∧ s.ppu.dot = 1 then false else s.ppu.nmiOccurred
          spriteZeroHit := s.ppu.spriteZeroHit && !decide (s.ppu.scanline = -1 ∧ s.ppu.dot = 1)
          spriteOverflow := s.ppu.spriteOverflow && !decide (s.ppu.scanline = -1 ∧ s.ppu.dot = 1) } } := by
  unfold flagEvents
  split
  · rename_i h; simp [h]
  rename_i h
  rw [not_not] at h
  split
  · rename_i h1
    unfold vblankStart
    cases hc : s.ppu.ctrl.getLsbD 7 <;> cases hn : s.ppu.nmiOccurred <;>
      simp [-BitVec.getLsbD_eq_getElem, h, h1, hc, hn, Ppu.nmiLine, bit, State.setNmiPending, State.setCpu, State.setPpu]
  split
  · rename_i h1 h2
    simp [h, h2, State.setPpu]
  · rename_i h1 h2
    simp [h1, h2]

/-! ### The advance of the position -/

theorem advancePosition_kept (p : Ppu) :
    advancePosition p = { p with scanline := (advancePosition p).scanline, dot := (advancePosition p).dot,
                                 frame := (advancePosition p).frame, oddFrame := (advancePosition p).oddFrame } := by
  unfold advancePosition
  dsimp only
  generalize (if p.scanline = -1 ∧ p.dot = 338 ∧ p.oddFrame = true ∧ p.rendering = true then 340 else p.dot + 1) = d
  split
  · rfl
  · split <;> rfl

theorem advancePosition_inRange {p : Ppu} (h : p.InRange) : (advancePosition p).InRange := by
  obtain ⟨h1, h2, h3⟩ := h
  unfold advancePosition
  dsimp only
  generalize hd : (if p.scanline = -1 ∧ p.dot = 338 ∧ p.oddFrame = true ∧ p.rendering = true then 340
    else p.dot + 1) = d
  split
  · rename_i hle; exact ⟨h1, hle, h3⟩
  · split
    · rename_i hle; exact ⟨⟨by show -1 ≤ p.scanline + 1; omega, hle⟩, Nat.zero_le _, h3⟩
    · exact ⟨⟨le_refl _, by show (-1 : Int) ≤ 260; omega⟩, Nat.zero_le _, h3⟩

/-! ### A whole dot -/

/-- What a number of dots can do. -/
structure DotFrame (s t : State) : Prop where
  rest : t = { s with cpu := { s.cpu with nmiPending := t.cpu.nmiPending }, ppu := t.ppu, mapper := t.mapper }
  banks : t.mapper.banks = s.mapper.banks
  vram : t.ppu.vram = s.ppu.vram
  palette : t.ppu.palette = s.ppu.palette
  oam : t.ppu.oam = s.ppu.oam
  mask : t.ppu.mask = s.ppu.mask
  inRange : s.ppu.InRange → t.ppu.InRange
  secondary : Memory.wf 32 s.ppu.secondaryOam → Memory.wf 32 t.ppu.secondaryOam
  picture : Cells.wf 61440 s.ppu.frameBuffer → Cells.wf 61440 t.ppu.frameBuffer

theorem DotFrame.refl (s : State) : DotFrame s s := by
  constructor <;> first | rfl | exact id

theorem DotFrame.trans {s t u : State} (h : DotFrame s t) (h' : DotFrame t u) : DotFrame s u where
  rest := by rw [h'.rest, h.rest]
  banks := h'.banks.trans h.banks
  vram := h'.vram.trans h.vram
  palette := h'.palette.trans h.palette
  oam := h'.oam.trans h.oam
  mask := h'.mask.trans h.mask
  inRange := h'.inRange ∘ h.inRange
  secondary := h'.secondary ∘ h.secondary
  picture := h'.picture ∘ h.picture

/-- Everything one dot can do. -/
theorem ppuStep_frame (s : State) : DotFrame s (ppuStep s) := by
  rw [ppuStep_eq, advancePosition_kept]
  have hf := flagEvents_eq s
  generalize flagEvents s = f at *
  have hs := dotStages_stage f
  generalize dotStages f = g at *
  have hk := hs.kept
  have hc := hs.cpu
  constructor
  case rest =>
    show g.setPpu _ = _
    conv_lhs => rw [hs.rest]
    rw [hf]
    simp only [State.setPpu, hc, hf]
  case banks => exact hs.banks.trans (by rw [hf])
  case vram => show g.ppu.vram = _; rw [hk, hf]
  case palette => show g.ppu.palette = _; rw [hk, hf]
  case oam => show g.ppu.oam = _; rw [hk, hf]
  case mask => show g.ppu.mask = _; rw [hk, hf]
  case inRange =>
    intro h
    rw [← advancePosition_kept]
    apply advancePosition_inRange
    refine ⟨?_, ?_, ?_⟩
    · rw [hs.scanline, hf]; exact h.scanline
    · rw [hs.dot, hf]; exact h.dot
    · exact hs.count (by rw [hf]; exact h.spriteCount)
  case secondary => intro h; exact hs.secondary (by rw [hf]; exact h)
  case picture => intro h; exact hs.picture (by rw [hf]; exact h)

/-- Everything a number of dots can do. -/
theorem ppuRun_frame (n : Nat) (s : State) : DotFrame s (ppuRun n s) := by
  induction n generalizing s with
  | zero => exact DotFrame.refl s
  | succ n ih => exact (ppuStep_frame s).trans (ih _)

end Sys2Proof.Machine
end

