-- ==== Sys2Proof/Laws/Invariant.lean ====
section
/-! SUPPORT. Every bus access keeps the invariant: every memory operation keeps its array canonical and
inside its length, every register write keeps the counters in range. -/

namespace Sys2Proof.Machine

/-! ### Reads -/

theorem banks_mmc1 {a b : MapperState} {m : Mmc1} (h : a.banks = b.banks) (ha : a = .mmc1 m) : b = .mmc1 m := by
  subst ha
  cases b <;> simp_all [MapperState.banks]

theorem MapperWf.of_banks {s t : State} (h : s.MapperWf) (hb : t.mapper.banks = s.mapper.banks)
    (hc : t.cart = s.cart) : t.MapperWf where
  kind := by rw [banks_kind hb, hc, h.kind]
  writeCount := fun m hm => h.writeCount m (banks_mmc1 hb hm)

theorem ReadEffect.inv {s t : State} (e : ReadEffect s t) (h : s.Inv) : t.Inv where
  arrays := by
    obtain ⟨a1, a2, a3, a4, a5, a6, a7, a8, a9⟩ := h.arrays
    constructor
    · rw [e.ram]; exact a1
    · rw [e.ppu]; exact a2
    · rw [e.ppu]; exact a3
    · rw [e.ppu]; exact a4
    · rw [e.ppu]; exact a5
    · rw [e.ppu]; exact a6
    · rw [e.board]; exact a7
    · rw [e.board]; exact a8
    · rw [e.board]; exact a9
  ppu := by
    obtain ⟨p1, p2, p3⟩ := h.ppu
    constructor <;> rw [e.ppu] <;> assumption
  apu := by
    obtain ⟨a1, a2, a3, a4, a5, a6, a7, a8⟩ := h.apu
    rw [e.apu]
    exact ⟨a1, a2, a3, a4, a5, a6, a7, a8⟩
  mapper := MapperWf.of_banks h.mapper e.mapper e.cart
  cart := by rw [e.cart]; exact h.cart
  params := by rw [e.params]; exact h.params

/-- A change of the CPU registers, the bus latch, the stall, the pads and `cyc` keeps the invariant. -/
theorem State.Inv.of_eq {s t : State} (h : s.Inv) (h1 : t.ram = s.ram) (h2 : t.ppu = s.ppu) (h3 : t.apu = s.apu)
    (h4 : t.board = s.board) (h5 : t.mapper = s.mapper) (h6 : t.cart = s.cart) (h7 : t.params = s.params) :
    t.Inv := by
  obtain ⟨⟨a1, a2, a3, a4, a5, a6, a7, a8, a9⟩, hp, ha, ⟨m1, m2⟩, hc, hk⟩ := h
  refine ⟨⟨?_, ?_, ?_, ?_, ?_, ?_, ?_, ?_, ?_⟩, ?_, ?_, ⟨?_, ?_⟩, ?_, ?_⟩
  · rw [h1]; exact a1
  · rw [h2]; exact a2
  · rw [h2]; exact a3
  · rw [h2]; exact a4
  · rw [h2]; exact a5
  · rw [h2]; exact a6
  · rw [h4]; exact a7
  · rw [h4]; exact a8
  · rw [h4]; exact a9
  · rw [h2]; exact hp
  · rw [h3]; exact ha
  · rw [h5, h6]; exact m1
  · rw [h5]; exact m2
  · rw [h6]; exact hc
  · rw [h7]; exact hk

/-! ### Updates of one component -/

theorem State.Inv.setRam {s : State} (h : s.Inv) {m : Memory} (hm : Memory.wf 2048 m) : (s.setRam m).Inv := by
  obtain ⟨⟨a1, a2, a3, a4, a5, a6, a7, a8, a9⟩, hp, ha, ⟨m1, m2⟩, hc, hk⟩ := h
  exact ⟨⟨hm, a2, a3, a4, a5, a6, a7, a8, a9⟩, hp, ha, ⟨m1, m2⟩, hc, hk⟩

theorem State.Inv.setApu {s : State} (h : s.Inv) {a : Apu} (hr : a.InRange) : (s.setApu a).Inv := by
  obtain ⟨⟨a1, a2, a3, a4, a5, a6, a7, a8, a9⟩, hp, ha, ⟨m1, m2⟩, hc, hk⟩ := h
  exact ⟨⟨a1, a2, a3, a4, a5, a6, a7, a8, a9⟩, hp, hr, ⟨m1, m2⟩, hc, hk⟩

theorem State.Inv.setMapper {s : State} (h : s.Inv) {m : MapperState} (hm : m.kind = s.mapper.kind)
    (hw : ∀ k, m = .mmc1 k → k.writeCount ≤ 4) : (s.setMapper m).Inv := by
  obtain ⟨⟨a1, a2, a3, a4, a5, a6, a7, a8, a9⟩, hp, ha, ⟨m1, m2⟩, hc, hk⟩ := h
  exact ⟨⟨a1, a2, a3, a4, a5, a6, a7, a8, a9⟩, hp, ha, ⟨hm.trans m1, hw⟩, hc, hk⟩

theorem State.Inv.setBoard {s : State} (h : s.Inv) {b : Board} (h1 : Memory.wf 8192 b.prgRam)
    (h2 : Memory.wf 8192 b.chrRam) (h3 : Memory.wf 2048 b.cartVram) : (s.setBoard b).Inv := by
  obtain ⟨⟨a1, a2, a3, a4, a5, a6, a7, a8, a9⟩, hp, ha, ⟨m1, m2⟩, hc, hk⟩ := h
  exact ⟨⟨a1, a2, a3, a4, a5, a6, h1, h2, h3⟩, hp, ha, ⟨m1, m2⟩, hc, hk⟩

/-- A PPU register write keeps the invariant when it keeps the arrays canonical and leaves the position
and the pipelines alone. -/
theorem State.Inv.setPpu {s : State} (h : s.Inv) {p : Ppu} (h1 : Memory.wf 2048 p.vram) (h2 : Cells.wf 32 p.palette)
    (h3 : Memory.wf 256 p.oam)
    (hk : p.secondaryOam = s.ppu.secondaryOam ∧ p.frameBuffer = s.ppu.frameBuffer ∧
      p.scanline = s.ppu.scanline ∧ p.dot = s.ppu.dot ∧ p.spriteCount = s.ppu.spriteCount) :
    (s.setPpu p).Inv := by
  obtain ⟨k1, k2, k3, k4, k5⟩ := hk
  obtain ⟨⟨a1, a2, a3, a4, a5, a6, a7, a8, a9⟩, ⟨p1, p2, p3⟩, ha, ⟨m1, m2⟩, hc, hk⟩ := h
  exact ⟨⟨a1, h1, h2, h3, k1 ▸ a5, k2 ▸ a6, a7, a8, a9⟩, ⟨k3 ▸ p1, k4 ▸ p2, k5 ▸ p3⟩, ha, ⟨m1, m2⟩, hc, hk⟩

theorem State.Inv.setPendingStall {s : State} (h : s.Inv) (n : Nat) : (s.setPendingStall n).Inv :=
  h.of_eq rfl rfl rfl rfl rfl rfl rfl

theorem State.Inv.setDataBus {s : State} (h : s.Inv) (b : Byte) : (s.setDataBus b).Inv :=
  h.of_eq rfl rfl rfl rfl rfl rfl rfl

theorem State.Inv.setPads {s : State} (h : s.Inv) (p : Pads) : (s.setPads p).Inv :=
  h.of_eq rfl rfl rfl rfl rfl rfl rfl

theorem State.Inv.setCyc {s : State} (h : s.Inv) (n : Nat) : (s.setCyc n).Inv :=
  h.of_eq rfl rfl rfl rfl rfl rfl rfl

/-- A change of the CPU registers. -/
theorem State.Inv.setCpu {s : State} (h : s.Inv) (c : Cpu) : (s.setCpu c).Inv :=
  h.of_eq rfl rfl rfl rfl rfl rfl rfl

/-! ### PPU writes -/

theorem paletteIndex_lt (a : VAddr) : paletteIndex a < 32 := by
  unfold paletteIndex
  exact (_ : BitVec 5).isLt

theorem bankOffset_lt {bank count size addr : Nat} (hc : 0 < count) (hs : 0 < size) :
    bankOffset bank count size addr < count * size := by
  unfold bankOffset
  have h1 := Nat.mod_lt bank hc
  have h2 := Nat.mod_lt addr hs
  calc bank % count * size + addr % size < bank % count * size + size := by omega
    _ = (bank % count + 1) * size := by ring
    _ ≤ count * size := Nat.mul_le_mul_right _ h1

/-- CHR RAM offsets stay inside its 8192 bytes (64_mappers.md R605). -/
theorem chrOffset_lt {m : MapperState} {c : Cartridge} {a : VAddr} (hc : c.chrLen = 0) (ha : a.toNat < 0x2000) :
    chrOffset m c a < 8192 := by
  have hs : chrSize c = 8192 := by simp [chrSize, hc]
  cases m with
  | nrom => exact ha
  | uxrom b => exact ha
  | aorom b s => exact ha
  | cnrom b =>
    simp only [chrOffset, hs, Nat.reduceDiv, Nat.mod_one, Nat.zero_mul, Nat.zero_add]; exact ha
  | mmc1 m =>
    simp only [chrOffset, hs]
    exact bankOffset_lt (by decide) (by decide)
  | mmc3 m =>
    simp only [chrOffset, hs]
    exact bankOffset_lt (by decide) (by decide)

theorem nametableBank_lt (m : Mirroring) (i : BitVec 2) : nametableBank m i.toNat < 4 := by
  cases m <;> revert i <;> decide

theorem ppuWrite_inv {s : State} (h : s.Inv) (a : VAddr) (b : Byte) : (ppuWrite s a b).Inv := by
  have ha := h.arrays
  unfold ppuWrite
  split
  · rename_i hlt
    have hn : (notifyA12 s a).Inv := (notifyA12_effect s a).inv h
    unfold chrWrite
    split
    · rename_i hc
      exact hn.setBoard ha.prgRam (Cells.write_wf _ (chrOffset_lt hc hlt) ha.chrRam) ha.cartVram
    · exact hn
  split
  · unfold ntWrite nametableCell
    dsimp only
    have ho := (field a 0 10).isLt
    have hb := nametableBank_lt (mirroringOf s) (field a 10 2)
    split
    · exact h.setPpu (Cells.write_wf _ (by omega) ha.vram) ha.palette ha.oam ⟨rfl, rfl, rfl, rfl, rfl⟩
    · exact h.setBoard ha.prgRam ha.chrRam (Cells.write_wf _ (by omega) ha.cartVram)
  · exact h.setPpu ha.vram (Cells.write_wf _ (paletteIndex_lt a) ha.palette) ha.oam ⟨rfl, rfl, rfl, rfl, rfl⟩

theorem ppuRegWrite_inv {s : State} (h : s.Inv) (i : Nat) (b : Byte) : (ppuRegWrite s i b).Inv := by
  have ha := h.arrays
  unfold ppuRegWrite
  split
  · unfold writePpuCtrl
    dsimp only
    have hp : (s.setPpu { s.ppu with ctrl := b, t := putField s.ppu.t 10 (field b 0 2) }).Inv :=
      h.setPpu ha.vram ha.palette ha.oam ⟨rfl, rfl, rfl, rfl, rfl⟩
    split
    · exact hp.setCpu _
    split
    · exact hp.setCpu _
    · exact hp
  · exact h.setPpu ha.vram ha.palette ha.oam ⟨rfl, rfl, rfl, rfl, rfl⟩
  · exact h.setPpu ha.vram ha.palette ha.oam ⟨rfl, rfl, rfl, rfl, rfl⟩
  · exact h.setPpu ha.vram ha.palette (Cells.write_wf _ s.ppu.oamAddr.isLt ha.oam) ⟨rfl, rfl, rfl, rfl, rfl⟩
  · unfold writePpuScroll
    split <;> exact h.setPpu ha.vram ha.palette ha.oam ⟨rfl, rfl, rfl, rfl, rfl⟩
  · unfold writePpuAddr
    split <;> exact h.setPpu ha.vram ha.palette ha.oam ⟨rfl, rfl, rfl, rfl, rfl⟩
  · have hw := ppuWrite_inv h (s.ppu.v.setWidth 14) b
    exact hw.setPpu hw.arrays.vram hw.arrays.palette hw.arrays.oam ⟨rfl, rfl, rfl, rfl, rfl⟩
  · exact h

/-! ### APU writes -/

theorem Dmc.write_spec (d : Dmc) (k : Nat) (b : Byte) :
    (d.write k b).bitsRemaining = d.bitsRemaining ∧ (d.write k b).curAddr = d.curAddr ∧
      (d.write k b).bytesRemaining = d.bytesRemaining ∧ (d.write k b).timer = d.timer ∧
      (0xC000 ≤ d.sampleAddr.toNat → 0xC000 ≤ (d.write k b).sampleAddr.toNat) := by
  unfold Dmc.write
  split
  · exact ⟨rfl, rfl, rfl, rfl, id⟩
  · exact ⟨rfl, rfl, rfl, rfl, id⟩
  · refine ⟨rfl, rfl, rfl, rfl, fun _ => ?_⟩
    have := b.isLt
    simp only [BitVec.toNat_add, BitVec.toNat_shiftLeft, BitVec.toNat_setWidth, BitVec.toNat_ofNat,
      Nat.shiftLeft_eq]
    omega
  · exact ⟨rfl, rfl, rfl, rfl, id⟩

theorem Noise.write_spec (n : Noise) (k : Nat) (b : Byte) :
    (n.write k b).lfsr = n.lfsr ∧ (n.write k b).timer = n.timer := by
  unfold Noise.write
  split <;> exact ⟨rfl, rfl⟩

theorem Apu.InRange.writeChannel {a : Apu} (h : a.InRange) (r : Nat) (b : Byte) : (a.writeChannel r b).InRange := by
  unfold Apu.writeChannel
  split
  · exact h.of_eq rfl rfl rfl rfl rfl
  · exact h.of_eq rfl rfl rfl rfl rfl
  · exact h.of_eq rfl rfl rfl rfl rfl
  · exact h.of_eq (Noise.write_spec _ _ _).1 (Noise.write_spec _ _ _).2 rfl rfl rfl
  · obtain ⟨d1, d2, d3, d4, d5⟩ := a.dmc.write_spec (r % 4) b
    obtain ⟨a1, a2, a3, a4, a5, a6, a7, a8⟩ := h
    refine ⟨a1, ?_, ?_, ?_, a5, ?_, a7, a8⟩
    · show 1 ≤ (a.dmc.write (r % 4) b).bitsRemaining ∧ _; rw [d1]; exact a2
    · exact d5 a3
    · show (a.dmc.write (r % 4) b).bytesRemaining ≠ _ → 0x8000 ≤ (a.dmc.write (r % 4) b).curAddr.toNat
      rw [d2, d3]; exact a4
    · show (a.dmc.write (r % 4) b).timer < 428; rw [d4]; exact a6

theorem Dmc.enable_spec (d : Dmc) (on : Bool) :
    (d.enable on).bitsRemaining = d.bitsRemaining ∧ (d.enable on).sampleAddr = d.sampleAddr ∧
      (d.enable on).timer = d.timer ∧
      (0xC000 ≤ d.sampleAddr.toNat → (d.bytesRemaining ≠ 0#12 → 0x8000 ≤ d.curAddr.toNat) →
        (d.enable on).bytesRemaining ≠ 0#12 → 0x8000 ≤ (d.enable on).curAddr.toNat) := by
  unfold Dmc.enable
  split
  · exact ⟨rfl, rfl, rfl, fun _ _ e => absurd rfl e⟩
  split
  · exact ⟨rfl, rfl, rfl, fun h _ _ => by dsimp only; omega⟩
  · exact ⟨rfl, rfl, rfl, fun _ h => h⟩

theorem Apu.InRange.writeEnable {a : Apu} (h : a.InRange) (b : Byte) : (a.writeEnable b).InRange := by
  obtain ⟨a1, a2, a3, a4, a5, a6, a7, a8⟩ := h
  obtain ⟨d1, d2, d3, d4⟩ := a.dmc.enable_spec (bit b 4)
  refine ⟨a1, ?_, ?_, d4 a3 a4, a5, ?_, a7, a8⟩
  · show 1 ≤ (a.dmc.enable (bit b 4)).bitsRemaining ∧ (a.dmc.enable (bit b 4)).bitsRemaining ≤ 8; rw [d1]; exact a2
  · show 0xC000 ≤ (a.dmc.enable (bit b 4)).sampleAddr.toNat; rw [d2]; exact a3
  · show (a.dmc.enable (bit b 4)).timer < 428; rw [d3]; exact a6

theorem Apu.InRange.writeFrame {a : Apu} (h : a.InRange) (b : Byte) : (a.writeFrame b).InRange := by
  have hf : Apu.InRange { a with frame :=
      { fiveStep := bit b 7, irqInhibit := bit b 6, frameIrq := a.frame.frameIrq && !bit b 6, fcCycle := 0 } } := by
    obtain ⟨a1, a2, a3, a4, a5, a6, a7, a8⟩ := h
    exact ⟨a1, a2, a3, a4, a5, a6, by dsimp only; split <;> omega, a8⟩
  unfold Apu.writeFrame
  dsimp only
  split
  · exact hf.quarter.half
  · exact hf

/-! ### Mapper writes -/

theorem mapperRegWrite_spec (m : MapperState) (a : Word) (b : Byte) :
    (mapperRegWrite m a b).kind = m.kind ∧
      ((∀ k, m = .mmc1 k → k.writeCount ≤ 4) → ∀ k, mapperRegWrite m a b = .mmc1 k → k.writeCount ≤ 4) := by
  cases m with
  | mmc1 m =>
    refine ⟨rfl, fun h k hk => ?_⟩
    have hm := h m rfl
    simp only [mapperRegWrite, MapperState.mmc1.injEq] at hk
    subst hk
    unfold mmc1Write
    split
    · exact Nat.zero_le 4
    · dsimp only
      split
      · split <;> exact Nat.zero_le 4
      · show m.writeCount + 1 ≤ 4; omega
  | nrom => exact ⟨rfl, fun _ k hk => by simp [mapperRegWrite] at hk⟩
  | uxrom b => exact ⟨rfl, fun _ k hk => by simp [mapperRegWrite] at hk⟩
  | cnrom b => exact ⟨rfl, fun _ k hk => by simp [mapperRegWrite] at hk⟩
  | aorom b s => exact ⟨rfl, fun _ k hk => by simp [mapperRegWrite] at hk⟩
  | mmc3 m => exact ⟨rfl, fun _ k hk => by simp [mapperRegWrite] at hk⟩

theorem mapperCpuWrite_inv {s : State} (h : s.Inv) (a : Word) (b : Byte) : (mapperCpuWrite s a b).Inv := by
  unfold mapperCpuWrite
  split
  · exact h
  split
  · split
    · exact h.setBoard (Cells.write_wf _ (by omega) h.arrays.prgRam) h.arrays.chrRam h.arrays.cartVram
    · exact h
  · obtain ⟨h1, h2⟩ := mapperRegWrite_spec s.mapper a b
    exact h.setMapper h1 (h2 h.mapper.writeCount)

/-- No write changes which mapper the machine has. -/
theorem busStore_kind (s : State) (a : Word) (v : Byte) : (busStore s a v).mapper.kind = s.mapper.kind := by
  by_cases h : a.toNat < 0x8000
  · exact banks_kind ((busStore_frame s a v).banks h)
  · have h6 : ¬a.toNat < 0x6000 := by omega
    rw [busStore_mapperRow v (by omega)]
    simp only [mapperCpuWrite, h6, h, if_false]
    exact (mapperRegWrite_spec _ _ _).1

/-! ### OAM DMA -/

theorem dmaByte_inv (base : Word) {s : State} (h : s.Inv) (i : Nat) : (dmaByte base s i).Inv := by
  have hr := (busRead_effect s (base + BitVec.ofNat 16 i)).inv h
  exact hr.setPpu hr.arrays.vram hr.arrays.palette (Cells.write_wf _ (Nat.mod_lt _ (by decide)) hr.arrays.oam)
    ⟨rfl, rfl, rfl, rfl, rfl⟩

theorem dmaFold_inv (base : Word) (l : List Nat) {s : State} (h : s.Inv) : (l.foldl (dmaByte base) s).Inv := by
  induction l generalizing s with
  | nil => exact h
  | cons i l ih => exact ih (dmaByte_inv base h i)

theorem dmaCopy_inv {s : State} (h : s.Inv) (v : Byte) : (dmaCopy s v).Inv := dmaFold_inv _ _ h

theorem oamDma_inv {s : State} (h : s.Inv) (v : Byte) : (oamDma s v).Inv := by
  rw [oamDma_eq]
  exact (dmaCopy_inv h v).setPendingStall _

/-! ### Writes -/

theorem busWriteRow_inv {s : State} (h : s.Inv) (a : Word) (v : Byte) : (busWriteRow s a v).Inv := by
  unfold busWriteRow
  split
  · exact h.setRam (Cells.write_wf _ (Nat.mod_lt _ (by decide)) h.arrays.ram)
  split
  · exact ppuRegWrite_inv h _ _
  split
  · exact h.setApu (h.apu.writeChannel _ _)
  split
  · exact oamDma_inv h v
  split
  · exact h.setApu (h.apu.writeEnable _)
  split
  · exact h.setPads _
  split
  · exact h.setApu (h.apu.writeFrame _)
  split
  · exact h
  · exact mapperCpuWrite_inv h a v

/-- Every write that is not refused keeps the invariant. -/
theorem busStore_inv {s : State} (h : s.Inv) (a : Word) (v : Byte) : (busStore s a v).Inv :=
  busWriteRow_inv (h.setDataBus v) a v

end Sys2Proof.Machine
end

