-- ==== Sys2Proof/Laws/PerInstr.lean ====
section
/-! SUPPORT. Statements made per instruction, one lemma per constructor. -/

namespace Sys2Proof.Laws.EncodeLength

/-- The first byte of an instruction's encoding is an opcode of the table, and the encoding has the length
of that opcode's format (30_encoding.md R130, R140). -/
def Statement (i : Instr) : Prop :=
  ∃ form, formOf ((encode i).headD 0#8) = some form ∧ (encode i).length = form.length

theorem ldaImm (v : Byte) : Statement (.ldaImm v) := ⟨_, rfl, rfl⟩
theorem ldaZp (z : Byte) : Statement (.ldaZp z) := ⟨_, rfl, rfl⟩
theorem ldaZpx (z : Byte) : Statement (.ldaZpx z) := ⟨_, rfl, rfl⟩
theorem ldaAbs (a : Word) : Statement (.ldaAbs a) := ⟨_, rfl, rfl⟩
theorem ldaAbx (a : Word) : Statement (.ldaAbx a) := ⟨_, rfl, rfl⟩
theorem ldaAby (a : Word) : Statement (.ldaAby a) := ⟨_, rfl, rfl⟩
theorem ldaIzx (z : Byte) : Statement (.ldaIzx z) := ⟨_, rfl, rfl⟩
theorem ldaIzy (z : Byte) : Statement (.ldaIzy z) := ⟨_, rfl, rfl⟩
theorem ldxImm (v : Byte) : Statement (.ldxImm v) := ⟨_, rfl, rfl⟩
theorem ldxZp (z : Byte) : Statement (.ldxZp z) := ⟨_, rfl, rfl⟩
theorem ldxZpy (z : Byte) : Statement (.ldxZpy z) := ⟨_, rfl, rfl⟩
theorem ldxAbs (a : Word) : Statement (.ldxAbs a) := ⟨_, rfl, rfl⟩
theorem ldxAby (a : Word) : Statement (.ldxAby a) := ⟨_, rfl, rfl⟩
theorem ldyImm (v : Byte) : Statement (.ldyImm v) := ⟨_, rfl, rfl⟩
theorem ldyZp (z : Byte) : Statement (.ldyZp z) := ⟨_, rfl, rfl⟩
theorem ldyZpx (z : Byte) : Statement (.ldyZpx z) := ⟨_, rfl, rfl⟩
theorem ldyAbs (a : Word) : Statement (.ldyAbs a) := ⟨_, rfl, rfl⟩
theorem ldyAbx (a : Word) : Statement (.ldyAbx a) := ⟨_, rfl, rfl⟩
theorem staZp (z : Byte) : Statement (.staZp z) := ⟨_, rfl, rfl⟩
theorem staZpx (z : Byte) : Statement (.staZpx z) := ⟨_, rfl, rfl⟩
theorem staAbs (a : Word) : Statement (.staAbs a) := ⟨_, rfl, rfl⟩
theorem staAbx (a : Word) : Statement (.staAbx a) := ⟨_, rfl, rfl⟩
theorem staAby (a : Word) : Statement (.staAby a) := ⟨_, rfl, rfl⟩
theorem staIzx (z : Byte) : Statement (.staIzx z) := ⟨_, rfl, rfl⟩
theorem staIzy (z : Byte) : Statement (.staIzy z) := ⟨_, rfl, rfl⟩
theorem stxZp (z : Byte) : Statement (.stxZp z) := ⟨_, rfl, rfl⟩
theorem stxZpy (z : Byte) : Statement (.stxZpy z) := ⟨_, rfl, rfl⟩
theorem stxAbs (a : Word) : Statement (.stxAbs a) := ⟨_, rfl, rfl⟩
theorem styZp (z : Byte) : Statement (.styZp z) := ⟨_, rfl, rfl⟩
theorem styZpx (z : Byte) : Statement (.styZpx z) := ⟨_, rfl, rfl⟩
theorem styAbs (a : Word) : Statement (.styAbs a) := ⟨_, rfl, rfl⟩
theorem tax : Statement .tax := ⟨_, rfl, rfl⟩
theorem tay : Statement .tay := ⟨_, rfl, rfl⟩
theorem txa : Statement .txa := ⟨_, rfl, rfl⟩
theorem tya : Statement .tya := ⟨_, rfl, rfl⟩
theorem tsx : Statement .tsx := ⟨_, rfl, rfl⟩
theorem txs : Statement .txs := ⟨_, rfl, rfl⟩
theorem pha : Statement .pha := ⟨_, rfl, rfl⟩
theorem php : Statement .php := ⟨_, rfl, rfl⟩
theorem pla : Statement .pla := ⟨_, rfl, rfl⟩
theorem plp : Statement .plp := ⟨_, rfl, rfl⟩
theorem andImm (v : Byte) : Statement (.andImm v) := ⟨_, rfl, rfl⟩
theorem andZp (z : Byte) : Statement (.andZp z) := ⟨_, rfl, rfl⟩
theorem andZpx (z : Byte) : Statement (.andZpx z) := ⟨_, rfl, rfl⟩
theorem andAbs (a : Word) : Statement (.andAbs a) := ⟨_, rfl, rfl⟩
theorem andAbx (a : Word) : Statement (.andAbx a) := ⟨_, rfl, rfl⟩
theorem andAby (a : Word) : Statement (.andAby a) := ⟨_, rfl, rfl⟩
theorem andIzx (z : Byte) : Statement (.andIzx z) := ⟨_, rfl, rfl⟩
theorem andIzy (z : Byte) : Statement (.andIzy z) := ⟨_, rfl, rfl⟩
theorem oraImm (v : Byte) : Statement (.oraImm v) := ⟨_, rfl, rfl⟩
theorem oraZp (z : Byte) : Statement (.oraZp z) := ⟨_, rfl, rfl⟩
theorem oraZpx (z : Byte) : Statement (.oraZpx z) := ⟨_, rfl, rfl⟩
theorem oraAbs (a : Word) : Statement (.oraAbs a) := ⟨_, rfl, rfl⟩
theorem oraAbx (a : Word) : Statement (.oraAbx a) := ⟨_, rfl, rfl⟩
theorem oraAby (a : Word) : Statement (.oraAby a) := ⟨_, rfl, rfl⟩
theorem oraIzx (z : Byte) : Statement (.oraIzx z) := ⟨_, rfl, rfl⟩
theorem oraIzy (z : Byte) : Statement (.oraIzy z) := ⟨_, rfl, rfl⟩
theorem eorImm (v : Byte) : Statement (.eorImm v) := ⟨_, rfl, rfl⟩
theorem eorZp (z : Byte) : Statement (.eorZp z) := ⟨_, rfl, rfl⟩
theorem eorZpx (z : Byte) : Statement (.eorZpx z) := ⟨_, rfl, rfl⟩
theorem eorAbs (a : Word) : Statement (.eorAbs a) := ⟨_, rfl, rfl⟩
theorem eorAbx (a : Word) : Statement (.eorAbx a) := ⟨_, rfl, rfl⟩
theorem eorAby (a : Word) : Statement (.eorAby a) := ⟨_, rfl, rfl⟩
theorem eorIzx (z : Byte) : Statement (.eorIzx z) := ⟨_, rfl, rfl⟩
theorem eorIzy (z : Byte) : Statement (.eorIzy z) := ⟨_, rfl, rfl⟩
theorem bitZp (z : Byte) : Statement (.bitZp z) := ⟨_, rfl, rfl⟩
theorem bitAbs (a : Word) : Statement (.bitAbs a) := ⟨_, rfl, rfl⟩
theorem adcImm (v : Byte) : Statement (.adcImm v) := ⟨_, rfl, rfl⟩
theorem adcZp (z : Byte) : Statement (.adcZp z) := ⟨_, rfl, rfl⟩
theorem adcZpx (z : Byte) : Statement (.adcZpx z) := ⟨_, rfl, rfl⟩
theorem adcAbs (a : Word) : Statement (.adcAbs a) := ⟨_, rfl, rfl⟩
theorem adcAbx (a : Word) : Statement (.adcAbx a) := ⟨_, rfl, rfl⟩
theorem adcAby (a : Word) : Statement (.adcAby a) := ⟨_, rfl, rfl⟩
theorem adcIzx (z : Byte) : Statement (.adcIzx z) := ⟨_, rfl, rfl⟩
theorem adcIzy (z : Byte) : Statement (.adcIzy z) := ⟨_, rfl, rfl⟩
theorem sbcImm (v : Byte) : Statement (.sbcImm v) := ⟨_, rfl, rfl⟩
theorem sbcZp (z : Byte) : Statement (.sbcZp z) := ⟨_, rfl, rfl⟩
theorem sbcZpx (z : Byte) : Statement (.sbcZpx z) := ⟨_, rfl, rfl⟩
theorem sbcAbs (a : Word) : Statement (.sbcAbs a) := ⟨_, rfl, rfl⟩
theorem sbcAbx (a : Word) : Statement (.sbcAbx a) := ⟨_, rfl, rfl⟩
theorem sbcAby (a : Word) : Statement (.sbcAby a) := ⟨_, rfl, rfl⟩
theorem sbcIzx (z : Byte) : Statement (.sbcIzx z) := ⟨_, rfl, rfl⟩
theorem sbcIzy (z : Byte) : Statement (.sbcIzy z) := ⟨_, rfl, rfl⟩
theorem cmpImm (v : Byte) : Statement (.cmpImm v) := ⟨_, rfl, rfl⟩
theorem cmpZp (z : Byte) : Statement (.cmpZp z) := ⟨_, rfl, rfl⟩
theorem cmpZpx (z : Byte) : Statement (.cmpZpx z) := ⟨_, rfl, rfl⟩
theorem cmpAbs (a : Word) : Statement (.cmpAbs a) := ⟨_, rfl, rfl⟩
theorem cmpAbx (a : Word) : Statement (.cmpAbx a) := ⟨_, rfl, rfl⟩
theorem cmpAby (a : Word) : Statement (.cmpAby a) := ⟨_, rfl, rfl⟩
theorem cmpIzx (z : Byte) : Statement (.cmpIzx z) := ⟨_, rfl, rfl⟩
theorem cmpIzy (z : Byte) : Statement (.cmpIzy z) := ⟨_, rfl, rfl⟩
theorem cpxImm (v : Byte) : Statement (.cpxImm v) := ⟨_, rfl, rfl⟩
theorem cpxZp (z : Byte) : Statement (.cpxZp z) := ⟨_, rfl, rfl⟩
theorem cpxAbs (a : Word) : Statement (.cpxAbs a) := ⟨_, rfl, rfl⟩
theorem cpyImm (v : Byte) : Statement (.cpyImm v) := ⟨_, rfl, rfl⟩
theorem cpyZp (z : Byte) : Statement (.cpyZp z) := ⟨_, rfl, rfl⟩
theorem cpyAbs (a : Word) : Statement (.cpyAbs a) := ⟨_, rfl, rfl⟩
theorem incZp (z : Byte) : Statement (.incZp z) := ⟨_, rfl, rfl⟩
theorem incZpx (z : Byte) : Statement (.incZpx z) := ⟨_, rfl, rfl⟩
theorem incAbs (a : Word) : Statement (.incAbs a) := ⟨_, rfl, rfl⟩
theorem incAbx (a : Word) : Statement (.incAbx a) := ⟨_, rfl, rfl⟩
theorem decZp (z : Byte) : Statement (.decZp z) := ⟨_, rfl, rfl⟩
theorem decZpx (z : Byte) : Statement (.decZpx z) := ⟨_, rfl, rfl⟩
theorem decAbs (a : Word) : Statement (.decAbs a) := ⟨_, rfl, rfl⟩
theorem decAbx (a : Word) : Statement (.decAbx a) := ⟨_, rfl, rfl⟩
theorem inx : Statement .inx := ⟨_, rfl, rfl⟩
theorem iny : Statement .iny := ⟨_, rfl, rfl⟩
theorem dex : Statement .dex := ⟨_, rfl, rfl⟩
theorem dey : Statement .dey := ⟨_, rfl, rfl⟩
theorem aslAcc : Statement .aslAcc := ⟨_, rfl, rfl⟩
theorem aslZp (z : Byte) : Statement (.aslZp z) := ⟨_, rfl, rfl⟩
theorem aslZpx (z : Byte) : Statement (.aslZpx z) := ⟨_, rfl, rfl⟩
theorem aslAbs (a : Word) : Statement (.aslAbs a) := ⟨_, rfl, rfl⟩
theorem aslAbx (a : Word) : Statement (.aslAbx a) := ⟨_, rfl, rfl⟩
theorem lsrAcc : Statement .lsrAcc := ⟨_, rfl, rfl⟩
theorem lsrZp (z : Byte) : Statement (.lsrZp z) := ⟨_, rfl, rfl⟩
theorem lsrZpx (z : Byte) : Statement (.lsrZpx z) := ⟨_, rfl, rfl⟩
theorem lsrAbs (a : Word) : Statement (.lsrAbs a) := ⟨_, rfl, rfl⟩
theorem lsrAbx (a : Word) : Statement (.lsrAbx a) := ⟨_, rfl, rfl⟩
theorem rolAcc : Statement .rolAcc := ⟨_, rfl, rfl⟩
theorem rolZp (z : Byte) : Statement (.rolZp z) := ⟨_, rfl, rfl⟩
theorem rolZpx (z : Byte) : Statement (.rolZpx z) := ⟨_, rfl, rfl⟩
theorem rolAbs (a : Word) : Statement (.rolAbs a) := ⟨_, rfl, rfl⟩
theorem rolAbx (a : Word) : Statement (.rolAbx a) := ⟨_, rfl, rfl⟩
theorem rorAcc : Statement .rorAcc := ⟨_, rfl, rfl⟩
theorem rorZp (z : Byte) : Statement (.rorZp z) := ⟨_, rfl, rfl⟩
theorem rorZpx (z : Byte) : Statement (.rorZpx z) := ⟨_, rfl, rfl⟩
theorem rorAbs (a : Word) : Statement (.rorAbs a) := ⟨_, rfl, rfl⟩
theorem rorAbx (a : Word) : Statement (.rorAbx a) := ⟨_, rfl, rfl⟩
theorem jmpAbs (a : Word) : Statement (.jmpAbs a) := ⟨_, rfl, rfl⟩
theorem jmpInd (a : Word) : Statement (.jmpInd a) := ⟨_, rfl, rfl⟩
theorem jsr (a : Word) : Statement (.jsr a) := ⟨_, rfl, rfl⟩
theorem rts : Statement .rts := ⟨_, rfl, rfl⟩
theorem bcc (d : Byte) : Statement (.bcc d) := ⟨_, rfl, rfl⟩
theorem bcs (d : Byte) : Statement (.bcs d) := ⟨_, rfl, rfl⟩
theorem beq (d : Byte) : Statement (.beq d) := ⟨_, rfl, rfl⟩
theorem bne (d : Byte) : Statement (.bne d) := ⟨_, rfl, rfl⟩
theorem bmi (d : Byte) : Statement (.bmi d) := ⟨_, rfl, rfl⟩
theorem bpl (d : Byte) : Statement (.bpl d) := ⟨_, rfl, rfl⟩
theorem bvc (d : Byte) : Statement (.bvc d) := ⟨_, rfl, rfl⟩
theorem bvs (d : Byte) : Statement (.bvs d) := ⟨_, rfl, rfl⟩
theorem clc : Statement .clc := ⟨_, rfl, rfl⟩
theorem sec : Statement .sec := ⟨_, rfl, rfl⟩
theorem cli : Statement .cli := ⟨_, rfl, rfl⟩
theorem sei : Statement .sei := ⟨_, rfl, rfl⟩
theorem cld : Statement .cld := ⟨_, rfl, rfl⟩
theorem sed : Statement .sed := ⟨_, rfl, rfl⟩
theorem clv : Statement .clv := ⟨_, rfl, rfl⟩
theorem brk : Statement .brk := ⟨_, rfl, rfl⟩
theorem rti : Statement .rti := ⟨_, rfl, rfl⟩
theorem nop : Statement .nop := ⟨_, rfl, rfl⟩

end Sys2Proof.Laws.EncodeLength
end

