-- ==== Sys2Proof/Tests/Slice0.lean ====
section
/-! SUPPORT. The model's own tests: ill-formed terms that the checks refuse, words written out from the
encoding table, one step per instruction with the expected result of 95_test_vectors.md, a few device
tests, and, for every statement with hypotheses, a concrete input that meets them. -/

namespace Sys2Proof.Tests

open Sys2Proof Sys2Proof.Machine

-- The kernel evaluations below run one after another, not a thread each.
set_option Elab.async false

/-! ### Well-formedness: the checks accept and refuse -/

theorem test_cart_accepted : resetCartridge.wf := by decide
theorem test_cart_with_chr_rom_accepted :
    ({ resetCartridge with chrLen := 8192, chrRom := [(8191, 1#8)], prgRamSize := 8192 } : Cartridge).wf := by
  decide
theorem test_cart_no_prg_refused : ¬({ resetCartridge with prgLen := 0 } : Cartridge).wf := by decide
theorem test_cart_prg_length_refused : ¬({ resetCartridge with prgLen := 8192 } : Cartridge).wf := by decide
theorem test_cart_chr_length_refused : ¬({ resetCartridge with chrLen := 4096 } : Cartridge).wf := by decide
theorem test_cart_mirroring_refused : ¬({ resetCartridge with mirroring := .singleA } : Cartridge).wf := by decide
theorem test_cart_prg_ram_size_refused : ¬({ resetCartridge with prgRamSize := 2048 } : Cartridge).wf := by decide
theorem test_cart_zero_cell_refused : ¬({ resetCartridge with prgRom := [(0, 0#8)] } : Cartridge).wf := by decide
theorem test_cart_unsorted_refused :
    ¬({ resetCartridge with prgRom := [(1, 1#8), (0, 1#8)] } : Cartridge).wf := by decide
theorem test_cart_prg_outside_refused : ¬({ resetCartridge with prgRom := [(16384, 1#8)] } : Cartridge).wf := by decide
theorem test_cart_chr_outside_refused : ¬({ resetCartridge with chrRom := [(0, 1#8)] } : Cartridge).wf := by decide

theorem test_params_accepted :
    ({ dmcStall := 1, unofficialNops := [(0x1A#8, ⟨.imp, 2, false⟩), (0x1C#8, ⟨.abx, 4, true⟩)] } : Params).wf := by
  decide
theorem test_params_no_stall_refused : ¬({ dmcStall := 0 } : Params).wf := by decide
theorem test_params_long_stall_refused : ¬({ dmcStall := 5 } : Params).wf := by decide
theorem test_params_twice_refused :
    ¬({ unofficialNops := [(0x1A#8, ⟨.imp, 2, false⟩), (0x1A#8, ⟨.imp, 3, false⟩)] } : Params).wf := by decide
theorem test_params_defined_opcode_refused :
    ¬({ unofficialNops := [(0xEA#8, ⟨.imp, 2, false⟩)] } : Params).wf := by decide

theorem test_instr_wf : Instr.wf (.ldaAbs 0xFFFF#16) = true := rfl
theorem test_header_mirroring : Mirroring.fourScreen.ofHeader = true ∧ Mirroring.singleB.ofHeader = false := by decide
theorem test_memory_wf : Memory.wf 2048 [(0, 1#8), (2047, 0xFF#8)] ∧ ¬Memory.wf 2048 [(2048, 1#8)] := by decide

/-! ### Decoding: words written out from 30_encoding.md R140, opcode byte first -/

theorem test_decode_load : decode [0b10110001#8, 0x20#8] = some (.ldaIzy 0x20#8, []) := by decide
theorem test_decode_load_y : decode [0b10111100#8, 0x34#8, 0x12#8] = some (.ldyAbx 0x1234#16, []) := by decide
theorem test_decode_store : decode [0b10010110#8, 0xF0#8] = some (.stxZpy 0xF0#8, []) := by decide
theorem test_decode_transfer : decode [0b10111010#8] = some (.tsx, []) := by decide
theorem test_decode_stack : decode [0b00101000#8] = some (.plp, []) := by decide
theorem test_decode_logic : decode [0b01001001#8, 0xFF#8] = some (.eorImm 0xFF#8, []) := by decide
theorem test_decode_arithmetic : decode [0b11111001#8, 0x01#8, 0x02#8] = some (.sbcAby 0x0201#16, []) := by decide
theorem test_decode_compare : decode [0b11001100#8, 0x00#8, 0x03#8] = some (.cpyAbs 0x0300#16, []) := by decide
theorem test_decode_incdec : decode [0b11010110#8, 0x7F#8] = some (.decZpx 0x7F#8, []) := by decide
theorem test_decode_shift : decode [0b01111110#8, 0xFF#8, 0x02#8] = some (.rorAbx 0x02FF#16, []) := by decide
theorem test_decode_jump : decode [0b01101100#8, 0xFF#8, 0x02#8] = some (.jmpInd 0x02FF#16, []) := by decide
theorem test_decode_branch : decode [0b00010000#8, 0xFB#8] = some (.bpl 0xFB#8, []) := by decide
theorem test_decode_flag : decode [0b10111000#8] = some (.clv, []) := by decide
theorem test_decode_system : decode [0b01000000#8, 0x99#8] = some (.rti, [0x99#8]) := by decide
theorem test_decode_short : decode [0xAD#8, 0x00#8] = none ∧ decode [] = none := by decide
theorem test_encode : encode (.jsr 0x9010#16) = [0x20#8, 0x10#8, 0x90#8] := by decide
theorem test_decode_table_word :
    decodeTableWord 24 0x02008D = some (.staAbs 0x0200#16) ∧ decodeTableWord 8 0xEA = some .nop ∧
      decodeTableWord 8 0xFF = none := by decide

/-! ### One step per instruction: the vectors of 95_test_vectors.md, part 2 -/

/-- The test cartridge of 95_test_vectors.md section 0 with `code` at a PRG offset and an IRQ vector. -/
def cartWith (offset : Nat) (code : List Byte) (irq : Word) : Cartridge :=
  { resetCartridge with
    prgRom := Cells.ofListFrom offset code ++
      Cells.ofListFrom 0x3FFA [0x00#8, 0x80#8, 0x00#8, 0x80#8, irq.extractLsb' 0 8, irq.extractLsb' 8 8] }

/-- CPU registers by A, X, Y, SP, P. -/
structure Regs where
  a : Byte
  x : Byte
  y : Byte
  sp : Byte
  p : Byte
  deriving DecidableEq, Repr

/-- The default start state of 95_test_vectors.md with the given code, registers and RAM. -/
def start (pc : Word) (code : List Byte) (r : Regs) (ram : Memory) (irq : Word := 0x8000#16) : State :=
  { State.reset with
    cpu := { a := r.a, x := r.x, y := r.y, sp := r.sp, pc := pc, p := flagsOf r.p,
             cycles := 7, nmiPending := false }
    ram := ram
    dataBus := 0x80#8
    cart := cartWith (pc.toNat - 0x8000) code irq }

/-- What a vector's end column names: the registers, PC, the cycles of the tick, RAM. -/
structure Seen where
  regs : Regs
  pc : Word
  cyc : Nat
  ram : Memory
  deriving DecidableEq, Repr

/-- The end of a step that answers a next state. -/
def seen : Result → Option Seen
  | .next t =>
    let c := t.cpu
    some ⟨⟨c.a, c.x, c.y, c.sp, BitVec.ofNat 8 (statusOf c.p)⟩, c.pc, t.cyc, t.ram⟩
  | _ => none

/-- T40.8 -/
theorem test_lda_abx_crossing :
    seen (step (start 0x8000#16 [0xBD#8, 0xF0#8, 0x02#8] ⟨0x00#8, 0x10#8, 0x00#8, 0xFD#8, 0x24#8⟩
      [(0x0300, 0x88#8)])) =
      some ⟨⟨0x88#8, 0x10#8, 0x00#8, 0xFD#8, 0xA4#8⟩, 0x8003#16, 5, [(0x0300, 0x88#8)]⟩ := by decide +kernel

/-- T40.10 -/
theorem test_lda_izx_pointer_wraps :
    seen (step (start 0x8000#16 [0xA1#8, 0xFE#8] ⟨0x00#8, 0x01#8, 0x00#8, 0xFD#8, 0x24#8⟩
      [(0x0000, 0x02#8), (0x00FF, 0x34#8), (0x0100, 0x07#8), (0x0234, 0xAB#8)])) =
      some ⟨⟨0xAB#8, 0x01#8, 0x00#8, 0xFD#8, 0xA4#8⟩, 0x8002#16, 6, [(0x0000, 0x02#8), (0x00FF, 0x34#8), (0x0100, 0x07#8), (0x0234, 0xAB#8)]⟩ := by decide +kernel

/-- T40.13 -/
theorem test_ldx_zpy_wraps :
    seen (step (start 0x8000#16 [0xB6#8, 0xFF#8] ⟨0x00#8, 0x00#8, 0x02#8, 0xFD#8, 0x24#8⟩
      [(0x0001, 0x5A#8)])) =
      some ⟨⟨0x00#8, 0x5A#8, 0x02#8, 0xFD#8, 0x24#8⟩, 0x8002#16, 4, [(0x0001, 0x5A#8)]⟩ := by decide +kernel

/-- T40.14 -/
theorem test_ldx_aby_crossing :
    seen (step (start 0x8000#16 [0xBE#8, 0x80#8, 0x01#8] ⟨0x00#8, 0x00#8, 0x80#8, 0xFD#8, 0x24#8⟩
      [])) =
      some ⟨⟨0x00#8, 0x00#8, 0x80#8, 0xFD#8, 0x26#8⟩, 0x8003#16, 5, []⟩ := by decide +kernel

/-- T40.15 -/
theorem test_ldy_abx :
    seen (step (start 0x8000#16 [0xBC#8, 0x00#8, 0x03#8] ⟨0x00#8, 0xFF#8, 0x00#8, 0xFD#8, 0x24#8⟩
      [(0x03FF, 0xF0#8)])) =
      some ⟨⟨0x00#8, 0xFF#8, 0xF0#8, 0xFD#8, 0xA4#8⟩, 0x8003#16, 4, [(0x03FF, 0xF0#8)]⟩ := by decide +kernel

/-- T40.16 -/
theorem test_sta_abx :
    seen (step (start 0x8000#16 [0x9D#8, 0xF0#8, 0x02#8] ⟨0x5A#8, 0x20#8, 0x00#8, 0xFD#8, 0x24#8⟩
      [])) =
      some ⟨⟨0x5A#8, 0x20#8, 0x00#8, 0xFD#8, 0x24#8⟩, 0x8003#16, 5, [(0x0310, 0x5A#8)]⟩ := by decide +kernel

/-- T40.20 -/
theorem test_sta_abs_mirror :
    seen (step (start 0x8000#16 [0x8D#8, 0xFF#8, 0x1F#8] ⟨0x5E#8, 0x00#8, 0x00#8, 0xFD#8, 0x24#8⟩
      [])) =
      some ⟨⟨0x5E#8, 0x00#8, 0x00#8, 0xFD#8, 0x24#8⟩, 0x8003#16, 4, [(0x07FF, 0x5E#8)]⟩ := by decide +kernel

/-- T40.21 -/
theorem test_stx_zpy :
    seen (step (start 0x8000#16 [0x96#8, 0xF0#8] ⟨0x00#8, 0x11#8, 0x20#8, 0xFD#8, 0x24#8⟩
      [])) =
      some ⟨⟨0x00#8, 0x11#8, 0x20#8, 0xFD#8, 0x24#8⟩, 0x8002#16, 4, [(0x0010, 0x11#8)]⟩ := by decide +kernel

/-- T40.22 -/
theorem test_sty_zpx :
    seen (step (start 0x8000#16 [0x94#8, 0xF0#8] ⟨0x00#8, 0x20#8, 0x22#8, 0xFD#8, 0x24#8⟩
      [])) =
      some ⟨⟨0x00#8, 0x20#8, 0x22#8, 0xFD#8, 0x24#8⟩, 0x8002#16, 4, [(0x0010, 0x22#8)]⟩ := by decide +kernel

/-- T41.1 -/
theorem test_tax :
    seen (step (start 0x8000#16 [0xAA#8] ⟨0x00#8, 0x55#8, 0x00#8, 0xFD#8, 0x24#8⟩
      [])) =
      some ⟨⟨0x00#8, 0x00#8, 0x00#8, 0xFD#8, 0x26#8⟩, 0x8001#16, 2, []⟩ := by decide +kernel

/-- T41.2 -/
theorem test_tay :
    seen (step (start 0x8000#16 [0xA8#8] ⟨0x80#8, 0x00#8, 0x00#8, 0xFD#8, 0x24#8⟩
      [])) =
      some ⟨⟨0x80#8, 0x00#8, 0x80#8, 0xFD#8, 0xA4#8⟩, 0x8001#16, 2, []⟩ := by decide +kernel

/-- T41.3 -/
theorem test_txa :
    seen (step (start 0x8000#16 [0x8A#8] ⟨0x00#8, 0x7F#8, 0x00#8, 0xFD#8, 0xA6#8⟩
      [])) =
      some ⟨⟨0x7F#8, 0x7F#8, 0x00#8, 0xFD#8, 0x24#8⟩, 0x8001#16, 2, []⟩ := by decide +kernel

/-- T41.4 -/
theorem test_tya :
    seen (step (start 0x8000#16 [0x98#8] ⟨0x00#8, 0x00#8, 0xFF#8, 0xFD#8, 0x24#8⟩
      [])) =
      some ⟨⟨0xFF#8, 0x00#8, 0xFF#8, 0xFD#8, 0xA4#8⟩, 0x8001#16, 2, []⟩ := by decide +kernel

/-- T41.5 -/
theorem test_tsx :
    seen (step (start 0x8000#16 [0xBA#8] ⟨0x00#8, 0x00#8, 0x00#8, 0xFD#8, 0x24#8⟩
      [])) =
      some ⟨⟨0x00#8, 0xFD#8, 0x00#8, 0xFD#8, 0xA4#8⟩, 0x8001#16, 2, []⟩ := by decide +kernel

/-- T41.7 -/
theorem test_txs :
    seen (step (start 0x8000#16 [0x9A#8] ⟨0x00#8, 0x80#8, 0x00#8, 0xFD#8, 0x24#8⟩
      [])) =
      some ⟨⟨0x00#8, 0x80#8, 0x00#8, 0x80#8, 0x24#8⟩, 0x8001#16, 2, []⟩ := by decide +kernel

/-- T42.8 -/
theorem test_pha_wraps :
    seen (step (start 0x8000#16 [0x48#8] ⟨0x13#8, 0x00#8, 0x00#8, 0x00#8, 0x24#8⟩
      [])) =
      some ⟨⟨0x13#8, 0x00#8, 0x00#8, 0xFF#8, 0x24#8⟩, 0x8001#16, 3, [(0x0100, 0x13#8)]⟩ := by decide +kernel

/-- T42.2 -/
theorem test_php :
    seen (step (start 0x8000#16 [0x08#8] ⟨0x00#8, 0x00#8, 0x00#8, 0xFD#8, 0x24#8⟩
      [])) =
      some ⟨⟨0x00#8, 0x00#8, 0x00#8, 0xFC#8, 0x24#8⟩, 0x8001#16, 3, [(0x01FD, 0x34#8)]⟩ := by decide +kernel

/-- T42.9 -/
theorem test_pla_wraps :
    seen (step (start 0x8000#16 [0x68#8] ⟨0x00#8, 0x00#8, 0x00#8, 0xFF#8, 0x24#8⟩
      [(0x0100, 0x21#8)])) =
      some ⟨⟨0x21#8, 0x00#8, 0x00#8, 0x00#8, 0x24#8⟩, 0x8001#16, 4, [(0x0100, 0x21#8)]⟩ := by decide +kernel

/-- T42.6 -/
theorem test_plp :
    seen (step (start 0x8000#16 [0x28#8] ⟨0x00#8, 0x00#8, 0x00#8, 0xFC#8, 0x24#8⟩
      [(0x01FD, 0xFF#8)])) =
      some ⟨⟨0x00#8, 0x00#8, 0x00#8, 0xFD#8, 0xEF#8⟩, 0x8001#16, 4, [(0x01FD, 0xFF#8)]⟩ := by decide +kernel

/-- T43.1 -/
theorem test_and :
    seen (step (start 0x8000#16 [0x29#8, 0x0F#8] ⟨0xF0#8, 0x00#8, 0x00#8, 0xFD#8, 0x24#8⟩
      [])) =
      some ⟨⟨0x00#8, 0x00#8, 0x00#8, 0xFD#8, 0x26#8⟩, 0x8002#16, 2, []⟩ := by decide +kernel

/-- T43.4 -/
theorem test_ora_abs :
    seen (step (start 0x8000#16 [0x0D#8, 0x00#8, 0x02#8] ⟨0x01#8, 0x00#8, 0x00#8, 0xFD#8, 0x24#8⟩
      [(0x0200, 0x80#8)])) =
      some ⟨⟨0x81#8, 0x00#8, 0x00#8, 0xFD#8, 0xA4#8⟩, 0x8003#16, 4, [(0x0200, 0x80#8)]⟩ := by decide +kernel

/-- T43.6 -/
theorem test_eor_izy_crossing :
    seen (step (start 0x8000#16 [0x51#8, 0x10#8] ⟨0x0F#8, 0x00#8, 0x01#8, 0xFD#8, 0x24#8⟩
      [(0x0010, 0xFF#8), (0x0011, 0x02#8), (0x0300, 0xF0#8)])) =
      some ⟨⟨0xFF#8, 0x00#8, 0x01#8, 0xFD#8, 0xA4#8⟩, 0x8002#16, 6, [(0x0010, 0xFF#8), (0x0011, 0x02#8), (0x0300, 0xF0#8)]⟩ := by decide +kernel

/-- T43.7 -/
theorem test_bit_zp :
    seen (step (start 0x8000#16 [0x24#8, 0x10#8] ⟨0x01#8, 0x00#8, 0x00#8, 0xFD#8, 0x24#8⟩
      [(0x0010, 0xC0#8)])) =
      some ⟨⟨0x01#8, 0x00#8, 0x00#8, 0xFD#8, 0xE6#8⟩, 0x8002#16, 3, [(0x0010, 0xC0#8)]⟩ := by decide +kernel

/-- T44.1 -/
theorem test_adc_overflow :
    seen (step (start 0x8000#16 [0x69#8, 0x50#8] ⟨0x50#8, 0x00#8, 0x00#8, 0xFD#8, 0x24#8⟩
      [])) =
      some ⟨⟨0xA0#8, 0x00#8, 0x00#8, 0xFD#8, 0xE4#8⟩, 0x8002#16, 2, []⟩ := by decide +kernel

/-- T44.5 -/
theorem test_adc_ignores_decimal :
    seen (step (start 0x8000#16 [0x69#8, 0x09#8] ⟨0x09#8, 0x00#8, 0x00#8, 0xFD#8, 0x2C#8⟩
      [])) =
      some ⟨⟨0x12#8, 0x00#8, 0x00#8, 0xFD#8, 0x2C#8⟩, 0x8002#16, 2, []⟩ := by decide +kernel

/-- T44.9 -/
theorem test_sbc_overflow :
    seen (step (start 0x8000#16 [0xE9#8, 0xB0#8] ⟨0x50#8, 0x00#8, 0x00#8, 0xFD#8, 0x25#8⟩
      [])) =
      some ⟨⟨0xA0#8, 0x00#8, 0x00#8, 0xFD#8, 0xE4#8⟩, 0x8002#16, 2, []⟩ := by decide +kernel

/-- T44.13 -/
theorem test_sbc_ignores_decimal :
    seen (step (start 0x8000#16 [0xE9#8, 0x01#8] ⟨0x10#8, 0x00#8, 0x00#8, 0xFD#8, 0x2D#8⟩
      [])) =
      some ⟨⟨0x0F#8, 0x00#8, 0x00#8, 0xFD#8, 0x2D#8⟩, 0x8002#16, 2, []⟩ := by decide +kernel

/-- T44.16 -/
theorem test_cmp_negative :
    seen (step (start 0x8000#16 [0xC9#8, 0x10#8] ⟨0x90#8, 0x00#8, 0x00#8, 0xFD#8, 0x24#8⟩
      [])) =
      some ⟨⟨0x90#8, 0x00#8, 0x00#8, 0xFD#8, 0xA5#8⟩, 0x8002#16, 2, []⟩ := by decide +kernel

/-- T44.18 -/
theorem test_cmp_abx_crossing :
    seen (step (start 0x8000#16 [0xDD#8, 0xFF#8, 0x02#8] ⟨0x05#8, 0x01#8, 0x00#8, 0xFD#8, 0x24#8⟩
      [(0x0300, 0x05#8)])) =
      some ⟨⟨0x05#8, 0x01#8, 0x00#8, 0xFD#8, 0x27#8⟩, 0x8003#16, 5, [(0x0300, 0x05#8)]⟩ := by decide +kernel

/-- T44.20 -/
theorem test_cpx_zp :
    seen (step (start 0x8000#16 [0xE4#8, 0x10#8] ⟨0x00#8, 0x7F#8, 0x00#8, 0xFD#8, 0x24#8⟩
      [(0x0010, 0x80#8)])) =
      some ⟨⟨0x00#8, 0x7F#8, 0x00#8, 0xFD#8, 0xA4#8⟩, 0x8002#16, 3, [(0x0010, 0x80#8)]⟩ := by decide +kernel

/-- T44.22 -/
theorem test_cpy_abs :
    seen (step (start 0x8000#16 [0xCC#8, 0x00#8, 0x02#8] ⟨0x00#8, 0x00#8, 0x00#8, 0xFD#8, 0x24#8⟩
      [(0x0200, 0x01#8)])) =
      some ⟨⟨0x00#8, 0x00#8, 0x00#8, 0xFD#8, 0xA4#8⟩, 0x8003#16, 4, [(0x0200, 0x01#8)]⟩ := by decide +kernel

/-- T45.3 -/
theorem test_inc_abx :
    seen (step (start 0x8000#16 [0xFE#8, 0xFF#8, 0x02#8] ⟨0x00#8, 0x01#8, 0x00#8, 0xFD#8, 0x24#8⟩
      [(0x0300, 0x01#8)])) =
      some ⟨⟨0x00#8, 0x01#8, 0x00#8, 0xFD#8, 0x24#8⟩, 0x8003#16, 7, [(0x0300, 0x02#8)]⟩ := by decide +kernel

/-- T45.6 -/
theorem test_dec_zpx_wraps :
    seen (step (start 0x8000#16 [0xD6#8, 0xFF#8] ⟨0x00#8, 0x02#8, 0x00#8, 0xFD#8, 0x24#8⟩
      [(0x0001, 0x80#8)])) =
      some ⟨⟨0x00#8, 0x02#8, 0x00#8, 0xFD#8, 0x24#8⟩, 0x8002#16, 6, [(0x0001, 0x7F#8)]⟩ := by decide +kernel

/-- T45.7 -/
theorem test_inx :
    seen (step (start 0x8000#16 [0xE8#8] ⟨0x00#8, 0xFF#8, 0x00#8, 0xFD#8, 0x24#8⟩
      [])) =
      some ⟨⟨0x00#8, 0x00#8, 0x00#8, 0xFD#8, 0x26#8⟩, 0x8001#16, 2, []⟩ := by decide +kernel

/-- T45.8 -/
theorem test_iny :
    seen (step (start 0x8000#16 [0xC8#8] ⟨0x00#8, 0x00#8, 0x7F#8, 0xFD#8, 0x24#8⟩
      [])) =
      some ⟨⟨0x00#8, 0x00#8, 0x80#8, 0xFD#8, 0xA4#8⟩, 0x8001#16, 2, []⟩ := by decide +kernel

/-- T45.9 -/
theorem test_dex :
    seen (step (start 0x8000#16 [0xCA#8] ⟨0x00#8, 0x00#8, 0x00#8, 0xFD#8, 0x24#8⟩
      [])) =
      some ⟨⟨0x00#8, 0xFF#8, 0x00#8, 0xFD#8, 0xA4#8⟩, 0x8001#16, 2, []⟩ := by decide +kernel

/-- T45.10 -/
theorem test_dey :
    seen (step (start 0x8000#16 [0x88#8] ⟨0x00#8, 0x00#8, 0x01#8, 0xFD#8, 0x24#8⟩
      [])) =
      some ⟨⟨0x00#8, 0x00#8, 0x00#8, 0xFD#8, 0x26#8⟩, 0x8001#16, 2, []⟩ := by decide +kernel

/-- T46.3 -/
theorem test_asl_zp :
    seen (step (start 0x8000#16 [0x06#8, 0x10#8] ⟨0x00#8, 0x00#8, 0x00#8, 0xFD#8, 0x24#8⟩
      [(0x0010, 0xC0#8)])) =
      some ⟨⟨0x00#8, 0x00#8, 0x00#8, 0xFD#8, 0xA5#8⟩, 0x8002#16, 5, [(0x0010, 0x80#8)]⟩ := by decide +kernel

/-- T46.6 -/
theorem test_lsr_abx :
    seen (step (start 0x8000#16 [0x5E#8, 0x00#8, 0x02#8] ⟨0x00#8, 0x05#8, 0x00#8, 0xFD#8, 0x24#8⟩
      [(0x0205, 0x03#8)])) =
      some ⟨⟨0x00#8, 0x05#8, 0x00#8, 0xFD#8, 0x25#8⟩, 0x8003#16, 7, [(0x0205, 0x01#8)]⟩ := by decide +kernel

/-- T46.9 -/
theorem test_rol :
    seen (step (start 0x8000#16 [0x2E#8, 0x00#8, 0x02#8] ⟨0x00#8, 0x00#8, 0x00#8, 0xFD#8, 0x25#8⟩
      [])) =
      some ⟨⟨0x00#8, 0x00#8, 0x00#8, 0xFD#8, 0x24#8⟩, 0x8003#16, 6, [(0x0200, 0x01#8)]⟩ := by decide +kernel

/-- T46.13 -/
theorem test_ror_abx :
    seen (step (start 0x8000#16 [0x7E#8, 0xFF#8, 0x02#8] ⟨0x00#8, 0x01#8, 0x00#8, 0xFD#8, 0x24#8⟩
      [(0x0300, 0x01#8)])) =
      some ⟨⟨0x00#8, 0x01#8, 0x00#8, 0xFD#8, 0x27#8⟩, 0x8003#16, 7, []⟩ := by decide +kernel

/-- T47.1 -/
theorem test_jmp_abs :
    seen (step (start 0x8000#16 [0x4C#8, 0x34#8, 0x12#8] ⟨0x00#8, 0x00#8, 0x00#8, 0xFD#8, 0x24#8⟩
      [])) =
      some ⟨⟨0x00#8, 0x00#8, 0x00#8, 0xFD#8, 0x24#8⟩, 0x1234#16, 3, []⟩ := by decide +kernel

/-- T47.3 -/
theorem test_jmp_ind_page_wrap :
    seen (step (start 0x8000#16 [0x6C#8, 0xFF#8, 0x02#8] ⟨0x00#8, 0x00#8, 0x00#8, 0xFD#8, 0x24#8⟩
      [(0x0200, 0x12#8), (0x02FF, 0x34#8), (0x0300, 0x99#8)])) =
      some ⟨⟨0x00#8, 0x00#8, 0x00#8, 0xFD#8, 0x24#8⟩, 0x1234#16, 5, [(0x0200, 0x12#8), (0x02FF, 0x34#8), (0x0300, 0x99#8)]⟩ := by decide +kernel

/-- T47.9 -/
theorem test_jsr_wraps :
    seen (step (start 0x8000#16 [0x20#8, 0x00#8, 0x90#8] ⟨0x00#8, 0x00#8, 0x00#8, 0x00#8, 0x24#8⟩
      [])) =
      some ⟨⟨0x00#8, 0x00#8, 0x00#8, 0xFE#8, 0x24#8⟩, 0x9000#16, 6, [(0x0100, 0x80#8), (0x01FF, 0x02#8)]⟩ := by decide +kernel

/-- T47.7 -/
theorem test_rts_wraps :
    seen (step (start 0x8000#16 [0x60#8] ⟨0x00#8, 0x00#8, 0x00#8, 0xFB#8, 0x24#8⟩
      [(0x01FC, 0xFF#8), (0x01FD, 0xFF#8)])) =
      some ⟨⟨0x00#8, 0x00#8, 0x00#8, 0xFD#8, 0x24#8⟩, 0x0000#16, 6, [(0x01FC, 0xFF#8), (0x01FD, 0xFF#8)]⟩ := by decide +kernel

/-- T47.11 -/
theorem test_bcc_taken :
    seen (step (start 0x8000#16 [0x90#8, 0x10#8] ⟨0x00#8, 0x00#8, 0x00#8, 0xFD#8, 0x24#8⟩
      [])) =
      some ⟨⟨0x00#8, 0x00#8, 0x00#8, 0xFD#8, 0x24#8⟩, 0x8012#16, 3, []⟩ := by decide +kernel

/-- T47.12 -/
theorem test_bcs_taken :
    seen (step (start 0x8000#16 [0xB0#8, 0x10#8] ⟨0x00#8, 0x00#8, 0x00#8, 0xFD#8, 0x25#8⟩
      [])) =
      some ⟨⟨0x00#8, 0x00#8, 0x00#8, 0xFD#8, 0x25#8⟩, 0x8012#16, 3, []⟩ := by decide +kernel

/-- T47.14 -/
theorem test_beq_to_itself :
    seen (step (start 0x8000#16 [0xF0#8, 0xFE#8] ⟨0x00#8, 0x00#8, 0x00#8, 0xFD#8, 0x26#8⟩
      [])) =
      some ⟨⟨0x00#8, 0x00#8, 0x00#8, 0xFD#8, 0x26#8⟩, 0x8000#16, 3, []⟩ := by decide +kernel

/-- T47.17 -/
theorem test_bne_back :
    seen (step (start 0x8000#16 [0xD0#8, 0x80#8] ⟨0x00#8, 0x00#8, 0x00#8, 0xFD#8, 0x24#8⟩
      [])) =
      some ⟨⟨0x00#8, 0x00#8, 0x00#8, 0xFD#8, 0x24#8⟩, 0x7F82#16, 4, []⟩ := by decide +kernel

/-- T47.18 -/
theorem test_bmi_taken :
    seen (step (start 0x8000#16 [0x30#8, 0x05#8] ⟨0x00#8, 0x00#8, 0x00#8, 0xFD#8, 0xA4#8⟩
      [])) =
      some ⟨⟨0x00#8, 0x00#8, 0x00#8, 0xFD#8, 0xA4#8⟩, 0x8007#16, 3, []⟩ := by decide +kernel

/-- T47.22 -/
theorem test_bpl_crossing :
    seen (step (start 0x80FD#16 [0x10#8, 0x02#8] ⟨0x00#8, 0x00#8, 0x00#8, 0xFD#8, 0x24#8⟩
      [])) =
      some ⟨⟨0x00#8, 0x00#8, 0x00#8, 0xFD#8, 0x24#8⟩, 0x8101#16, 4, []⟩ := by decide +kernel

/-- T47.20 -/
theorem test_bvc_taken :
    seen (step (start 0x8000#16 [0x50#8, 0x05#8] ⟨0x00#8, 0x00#8, 0x00#8, 0xFD#8, 0x24#8⟩
      [])) =
      some ⟨⟨0x00#8, 0x00#8, 0x00#8, 0xFD#8, 0x24#8⟩, 0x8007#16, 3, []⟩ := by decide +kernel

/-- T47.21 -/
theorem test_bvs_taken :
    seen (step (start 0x8000#16 [0x70#8, 0x05#8] ⟨0x00#8, 0x00#8, 0x00#8, 0xFD#8, 0x64#8⟩
      [])) =
      some ⟨⟨0x00#8, 0x00#8, 0x00#8, 0xFD#8, 0x64#8⟩, 0x8007#16, 3, []⟩ := by decide +kernel

/-- T48.1 -/
theorem test_clc :
    seen (step (start 0x8000#16 [0x18#8] ⟨0x00#8, 0x00#8, 0x00#8, 0xFD#8, 0xEF#8⟩
      [])) =
      some ⟨⟨0x00#8, 0x00#8, 0x00#8, 0xFD#8, 0xEE#8⟩, 0x8001#16, 2, []⟩ := by decide +kernel

/-- T48.2 -/
theorem test_sec :
    seen (step (start 0x8000#16 [0x38#8] ⟨0x00#8, 0x00#8, 0x00#8, 0xFD#8, 0x20#8⟩
      [])) =
      some ⟨⟨0x00#8, 0x00#8, 0x00#8, 0xFD#8, 0x21#8⟩, 0x8001#16, 2, []⟩ := by decide +kernel

/-- T48.3 -/
theorem test_cli :
    seen (step (start 0x8000#16 [0x58#8] ⟨0x00#8, 0x00#8, 0x00#8, 0xFD#8, 0xEF#8⟩
      [])) =
      some ⟨⟨0x00#8, 0x00#8, 0x00#8, 0xFD#8, 0xEB#8⟩, 0x8001#16, 2, []⟩ := by decide +kernel

/-- T48.4 -/
theorem test_sei :
    seen (step (start 0x8000#16 [0x78#8] ⟨0x00#8, 0x00#8, 0x00#8, 0xFD#8, 0x20#8⟩
      [])) =
      some ⟨⟨0x00#8, 0x00#8, 0x00#8, 0xFD#8, 0x24#8⟩, 0x8001#16, 2, []⟩ := by decide +kernel

/-- T48.5 -/
theorem test_cld :
    seen (step (start 0x8000#16 [0xD8#8] ⟨0x00#8, 0x00#8, 0x00#8, 0xFD#8, 0xEF#8⟩
      [])) =
      some ⟨⟨0x00#8, 0x00#8, 0x00#8, 0xFD#8, 0xE7#8⟩, 0x8001#16, 2, []⟩ := by decide +kernel

/-- T48.6 -/
theorem test_sed :
    seen (step (start 0x8000#16 [0xF8#8] ⟨0x00#8, 0x00#8, 0x00#8, 0xFD#8, 0x20#8⟩
      [])) =
      some ⟨⟨0x00#8, 0x00#8, 0x00#8, 0xFD#8, 0x28#8⟩, 0x8001#16, 2, []⟩ := by decide +kernel

/-- T48.7 -/
theorem test_clv :
    seen (step (start 0x8000#16 [0xB8#8] ⟨0x00#8, 0x00#8, 0x00#8, 0xFD#8, 0xEF#8⟩
      [])) =
      some ⟨⟨0x00#8, 0x00#8, 0x00#8, 0xFD#8, 0xAF#8⟩, 0x8001#16, 2, []⟩ := by decide +kernel

/-- T49.2 -/
theorem test_brk :
    seen (step (start 0x8000#16 [0x00#8, 0xFF#8] ⟨0x00#8, 0x00#8, 0x00#8, 0xFD#8, 0x20#8⟩
      [] 0x9000#16)) =
      some ⟨⟨0x00#8, 0x00#8, 0x00#8, 0xFA#8, 0x24#8⟩, 0x9000#16, 7, [(0x01FB, 0x30#8), (0x01FC, 0x02#8), (0x01FD, 0x80#8)]⟩ := by decide +kernel

/-- T49.4 -/
theorem test_rti :
    seen (step (start 0x8000#16 [0x40#8] ⟨0x00#8, 0x00#8, 0x00#8, 0xFA#8, 0x24#8⟩
      [(0x01FB, 0xFF#8), (0x01FC, 0x34#8), (0x01FD, 0x12#8)])) =
      some ⟨⟨0x00#8, 0x00#8, 0x00#8, 0xFD#8, 0xEF#8⟩, 0x1234#16, 6, [(0x01FB, 0xFF#8), (0x01FC, 0x34#8), (0x01FD, 0x12#8)]⟩ := by decide +kernel

/-- T49.1 -/
theorem test_nop :
    seen (step (start 0x8000#16 [0xEA#8] ⟨0x01#8, 0x02#8, 0x03#8, 0xFD#8, 0xEF#8⟩
      [])) =
      some ⟨⟨0x01#8, 0x02#8, 0x03#8, 0xFD#8, 0xEF#8⟩, 0x8001#16, 2, []⟩ := by decide +kernel

/-! ### The step, interrupts, faults and devices -/

/-- The default start state with a program of one NOP. -/
def idle : State := start 0x8000#16 [0xEA#8] ⟨0#8, 0#8, 0#8, 0xFD#8, 0x24#8⟩ []

/-- `idle` with IRQs enabled. -/
def awake : State := start 0x8000#16 [0xEA#8] ⟨0#8, 0#8, 0#8, 0xFD#8, 0x20#8⟩ []

/-- A result is a next state. -/
def isNext : Result → Bool
  | .next _ => true
  | _ => false

/-- A result is a fault. -/
def isFault : Result → Bool
  | .fault _ => true
  | _ => false

/-- A next outcome is the outcome of some next state. -/
theorem exists_next {r : Result} (h : isNext r = true) : ∃ t, r = .next t := by
  cases r with
  | next t => exact ⟨t, rfl⟩
  | fault e => cases h
  | refused e => cases h

/-- A fault outcome is the outcome of some fault. -/
theorem exists_fault {r : Result} (h : isFault r = true) : ∃ e, r = .fault e := by
  cases r with
  | next t => cases h
  | fault e => exact ⟨e, rfl⟩
  | refused e => cases h

/-- The outcome's state by a projection, for a next outcome. -/
def view {α : Type} (f : State → α) : Result → Option α
  | .next t => some (f t)
  | _ => none

/-- 61 R350: a NOP moves the PPU 6 dots and the APU 2 cycles. -/
theorem test_tick_rates :
    view (fun t => (t.ppu.scanline, t.ppu.dot, t.apu.frame.fcCycle, t.cpu.cycles)) (step idle) =
      some (0, 6, 2, 9) := by decide +kernel

/-- 60 R301: the fault names the opcode and its address. -/
theorem test_decode_error :
    (match step (start 0x8000#16 [0x02#8] ⟨0#8, 0#8, 0#8, 0xFD#8, 0x24#8⟩ []) with
      | .fault (.decodeError op pc t) => some (op, pc, t.dataBus, t.cpu.cycles)
      | _ => none) = some (0x02#8, 0x8000#16, 0x02#8, 7) := by decide +kernel

/-- 60 R302: a store to NROM's ROM is refused. -/
theorem test_bad_access :
    (match step (start 0x8000#16 [0x8D#8, 0x00#8, 0x80#8] ⟨0#8, 0#8, 0#8, 0xFD#8, 0x24#8⟩ []) with
      | .fault (.badAccess a k t) => some (a, k, t.cpu.pc)
      | _ => none) = some (0x8000#16, .write, 0x8000#16) := by decide +kernel

/-- 60 R312, R320: the NMI sequence from SP = 0xFD. -/
theorem test_nmi :
    seen (step { awake with cpu := { awake.cpu with nmiPending := true } }) =
      some ⟨⟨0#8, 0#8, 0#8, 0xFA#8, 0x24#8⟩, 0x8000#16, 7, [(0x01FB, 0x20#8), (0x01FD, 0x80#8)]⟩ := by
  decide +kernel

/-- 61 R362: the DMA started at an odd cycle count: 4 + 514. -/
theorem test_dma_stall :
    view (fun t => (t.cyc, t.pendingStall))
      (cpuStep (start 0x8000#16 [0x8D#8, 0x14#8, 0x40#8] ⟨2#8, 0#8, 0#8, 0xFD#8, 0x24#8⟩ [])) =
      some (518, 0) := by decide +kernel

/-- 62 R420: two PPUADDR writes, then a PPUDATA write. -/
theorem test_ppu_data_protocol :
    (let s := busStore (busStore (busStore idle 0x2006#16 0x21#8) 0x2006#16 0x08#8) 0x2007#16 0x55#8
     (s.ppu.v, s.ppu.t, s.ppu.w, s.ppu.vram)) = (0x2109#15, 0x2108#15, false, [(0x0108, 0x55#8)]) := by
  decide +kernel

/-- 61 R373: the snapshot 0x81 read serially. -/
theorem test_controller :
    (let s := busStore (busStore (setSnapshots idle 0x81#8 0#8) 0x4016#16 1#8) 0x4016#16 0#8
     (List.range 9).map fun n => (Nat.repeat (fun u => (busRead u 0x4016#16).2) n s).pads.shift1) =
      [0x81#8, 0xC0#8, 0xE0#8, 0xF0#8, 0xF8#8, 0xFC#8, 0xFE#8, 0xFF#8, 0xFF#8] := by decide +kernel

/-- MMC1's registers after power-on (10_state.md R41). -/
def mmc1 : Mmc1 :=
  { shift := 0#5, writeCount := 0, control := 0x0C#5, chrBank0 := 0#5, chrBank1 := 0#5, prgBank := 0#5 }

/-- MMC3's registers ready to raise its interrupt after `latch + 1` edges (64_mappers.md R665). -/
def mmc3 : Mmc3 :=
  { bankSelect := 0#8, r := Vector.replicate 8 0#8, mirroring := false, prgRamProtect := 0#8, irqLatch := 4#8,
    irqCounter := 0#8, irqReload := true, irqEnable := true, irqFlag := false, lastA12 := false }

/-- A larger cartridge with PRG RAM, for the banked mappers. -/
def bigCart : Cartridge := { resetCartridge with prgLen := 131072, prgRamSize := 8192 }

/-- `idle` with another mapper on the larger cartridge. -/
def withMapper (m : MapperState) : State := { idle with mapper := m, cart := { bigCart with mapper := m.kind } }

/-- 64 R646: five writes load control with 0x0E. -/
theorem test_mmc1_serial :
    ([0#8, 1#8, 1#8, 1#8, 0#8].foldl (fun s b => busStore s 0x8000#16 b) (withMapper (.mmc1 mmc1))).mapper =
      .mmc1 { mmc1 with control := 0x0E#5 } := by decide +kernel

/-- 64 R665: the interrupt asserts on the fifth edge. -/
theorem test_mmc3_edges :
    (let edge (u : State) : State := (ppuRead (ppuRead u 0x1000#14).2 0x0000#14).2
     (List.range 6).map fun n => irqPending (Nat.repeat edge n (withMapper (.mmc3 mmc3))).mapper) =
      [false, false, false, false, false, true] := by decide +kernel

/-- 64 R608, R658, by hand: with CHR inversion 0x0C00 is window 7, R[5] = 9, of 8 banks bank 1: offset 0x0400. -/
theorem test_mmc3_chr_write :
    (ppuWrite (withMapper (.mmc3 { mmc3 with bankSelect := 0x80#8, r := mmc3.r.set 5 9#8 })) 0x0C00#14 0xA5#8).board.chrRam =
      [(0x0400, 0xA5#8)] := by decide +kernel

/-- One sprite in secondary OAM: top line 10, tile 0x43, the given attributes; the PPU on line 22. -/
def spriteAt (ctrl attr : Byte) : Ppu :=
  { idle.ppu with ctrl := ctrl, scanline := 22, spriteCount := 1, secondaryOam := Cells.ofList [10#8, 0x43#8, attr, 0#8] }

/-- 62 R472, by hand: row 12 of a tall sprite, and of its flip (row 3); the size switched to 8x8 after the
evaluation keeps row 12. -/
theorem test_sprite_address :
    spritePatternAddr (spriteAt 0x20#8 0#8) 0 = 0x1434#14 ∧ spritePatternAddr (spriteAt 0x20#8 0x80#8) 0 = 0x1423#14 ∧
      spritePatternAddr (spriteAt 0x08#8 0#8) 0 = 0x143C#14 := by decide +kernel

/-- 70 R701, 95 section 0: the power-on state of the test cartridge. -/
theorem test_power_on :
    (powerOn (cartWith 0 [0xEA#8] 0x8000#16) {} {}).map
        (fun s => (s.cpu.pc, s.cpu.sp, s.cpu.cycles, s.dataBus, s.pendingStall)) =
      some (0x8000#16, 0xFD#8, 7, 0x80#8, 0) := by decide +kernel

/-- 92 D38: a runtime reset keeps a pending stall, OAMADDR and `v`; 70 R701: SP, PC and 7 more cycles. -/
theorem test_runtime_reset :
    (let s := runtimeReset { idle with
        pendingStall := 4
        ppu := { idle.ppu with v := 0x2345#15, oamAddr := 9#8, ctrl := 0x80#8 } }
     (s.pendingStall, s.ppu.v, s.ppu.oamAddr, s.ppu.ctrl, s.cpu.sp, s.cpu.cycles) =
      (4, 0x2345#15, 9#8, 0#8, 0xFD#8, idle.cpu.cycles + 7)) := by decide +kernel

/-- 64 R603: an iNES header with a trainer flag and mapper 4; a short payload is refused. -/
theorem test_ines_refused :
    cartridgeOfFile ([0x4E#8, 0x45#8, 0x53#8, 0x1A#8, 1#8, 0#8, 0x40#8, 0#8] ++ List.replicate 8 0#8) = none := by
  decide +kernel

/-- Log 14: the host's word is fetched and run first after reset. -/
theorem test_with_fetch_word :
    view (fun t => (t.cpu.a, t.cpu.pc)) (step (State.reset.withFetchWord 16 0x42A9)) = some (0x42#8, 0x0002#16) := by
  decide +kernel

/-! ### Witnesses: a concrete input for every statement with hypotheses

A `witness` that is an implication instantiates the statement it names: its proof meets every hypothesis. -/

theorem witness_encodeThenDecode : Instr.wf (.ldaImm 0xFF#8) = true ∧ Instr.wf .brk = true := ⟨rfl, rfl⟩

theorem witness_decodeThenEncode : decode [0xA9#8, 0x42#8, 0x8D#8] = some (.ldaImm 0x42#8, [0x8D#8]) := by decide

theorem idle_quiet : quiet idle := ⟨by decide +kernel, by decide +kernel⟩

theorem witness_stepRunsDecodedInstruction :
    quiet idle ∧ decode (fetchBytes 1 idle.cpu.pc idle).1 = some (.nop, []) := ⟨idle_quiet, by decide +kernel⟩

/-- An undefined opcode, in the cartridge. -/
def stuck : State := start 0x8000#16 [0x02#8] ⟨0#8, 0#8, 0#8, 0xFD#8, 0x24#8⟩ []

/-- An undefined opcode, in the last byte of RAM's mirrors. -/
def stuckInRam : State := start 0x1FFF#16 [] ⟨0#8, 0#8, 0#8, 0xFD#8, 0x24#8⟩ [(0x07FF, 0xFF#8)]

theorem witness_undefinedOpcodeFaults :
    ∀ s ∈ [stuck, stuckInRam], quiet s ∧ formOf (busRead s s.cpu.pc).1 = none ∧
      s.params.unofficialNops.lookup (busRead s s.cpu.pc).1 = none ∧
      (s.cpu.pc.toNat < 0x2000 ∨ 0x4020 ≤ s.cpu.pc.toNat) := by
  intro s hs
  simp only [List.mem_cons, List.mem_nil_iff, or_false] at hs
  rcases hs with rfl | rfl
  · exact ⟨⟨by decide +kernel, by decide +kernel⟩, by decide +kernel, by decide +kernel, by decide +kernel⟩
  · exact ⟨⟨by decide +kernel, by decide +kernel⟩, by decide +kernel, by decide +kernel, by decide +kernel⟩

theorem witness_interruptSequence :
    (0x8000 ≤ (0x8000#16).toNat ∧ (0x8000#16).toNat < 0xFFFF) ∧
      (0x8000 ≤ (0xFFFE#16).toNat ∧ (0xFFFE#16).toNat < 0xFFFF) := by decide

theorem witness_nmiService : ({ idle.cpu with nmiPending := true } : Cpu).nmiPending = true := rfl

/-- The three sources of the IRQ line, I clear. -/
def calling : List State :=
  [{ awake with apu := { awake.apu with frame := { awake.apu.frame with frameIrq := true } } },
   { awake with apu := { awake.apu with dmc := { awake.apu.dmc with irqFlag := true } } },
   { awake with mapper := .mmc3 { mmc3 with irqFlag := true } }]

theorem witness_irqService :
    (∀ s ∈ calling, s.cpu.nmiPending = false ∧ s.irqLine = true ∧ s.cpu.p.i = false) ∧
      (idle.cpu.nmiPending = false ∧ idle.cpu.p.i = true) := by decide +kernel

theorem witness_interruptRoundTrip :
    (∃ t, exec .rti (takeInterrupt 0xFFFA#16 idle.cpu.pc false idle) = .next t) ∧
      (∃ t, exec .rti (takeInterrupt 0xFFFE#16 idle.cpu.pc false idle) = .next t) ∧
      ∃ t u, exec .brk idle = .next t ∧ exec .rti t = .next u :=
  ⟨⟨_, rfl⟩, ⟨_, rfl⟩, _, _, rfl, rfl⟩

theorem witness_loadResults : Obligations.LoadResults →
    (∃ t, exec (.ldaAbx 0xFFFF#16) idle = .next t) ∧ (∃ t, exec (.ldxZpy 0xFF#8) idle = .next t) ∧
      ∃ t, exec (.ldyImm 0#8) idle = .next t := fun h =>
  ⟨⟨_, (h idle 0#8 0#8 0xFFFF#16).1 _ (.mem (.abx 0xFFFF#16)) 3 4 (by simp)⟩,
   ⟨_, (h idle 0#8 0xFF#8 0#16).2.1 _ (.mem (.zpy 0xFF#8)) 2 4 (by simp)⟩,
   ⟨_, (h idle 0#8 0#8 0#16).2.2 _ (.imm 0#8) 2 2 (by simp)⟩⟩

theorem witness_storeResults : Obligations.StoreResults →
    (∃ t, exec (.staAbs 0x0200#16) idle = .next t) ∧ ∃ e, exec (.staAbs 0x8000#16) idle = .fault e := fun h =>
  ⟨⟨_, (h idle 0#8 0x0200#16 _ (.abs 0x0200#16) idle.cpu.a 3 4 (by simp)).1 (by decide +kernel)⟩,
   ⟨_, (h idle 0#8 0x8000#16 _ (.abs 0x8000#16) idle.cpu.a 3 4 (by simp)).2 (by decide +kernel)⟩⟩

theorem witness_stackRoundTrips :
    (∃ t u, exec .pha idle = .next t ∧ exec .pla t = .next u) ∧
    (∃ t1 t2 t3 t4, exec .txa idle = .next t1 ∧ exec .pha t1 = .next t2 ∧ exec .pla t2 = .next t3 ∧
      exec .tax t3 = .next t4) ∧
    (∃ t1 t2 t3 t4, exec .tya idle = .next t1 ∧ exec .pha t1 = .next t2 ∧ exec .pla t2 = .next t3 ∧
      exec .tay t3 = .next t4) ∧
    (∃ t u, exec .php idle = .next t ∧ exec .plp t = .next u) ∧
    (∃ t u, exec .php idle = .next t ∧ exec .pla t = .next u) ∧
    ∃ t1 t2 t3, exec (.ldaImm 0xFF#8) idle = .next t1 ∧ exec .pha t1 = .next t2 ∧ exec .plp t2 = .next t3 :=
  ⟨⟨_, _, rfl, rfl⟩, ⟨_, _, _, _, rfl, rfl, rfl, rfl⟩, ⟨_, _, _, _, rfl, rfl, rfl, rfl⟩, ⟨_, _, rfl, rfl⟩,
   ⟨_, _, rfl, rfl⟩, _, _, _, rfl, rfl, rfl⟩

theorem witness_logicResults : Obligations.LogicResults →
    (∃ t, exec (.andImm 0x0F#8) idle = .next t) ∧ (∃ t, exec (.oraIzy 0x10#8) idle = .next t) ∧
      ∃ t, exec (.eorAby 0xFFFF#16) idle = .next t := fun h =>
  ⟨⟨_, h idle 0x0F#8 0#8 0#16 _ (.imm 0x0F#8) (idle.cpu.a &&& ·) 2 2 (by simp)⟩,
   ⟨_, h idle 0#8 0x10#8 0#16 _ (.mem (.izy 0x10#8)) (idle.cpu.a ||| ·) 2 5 (by simp)⟩,
   ⟨_, h idle 0#8 0#8 0xFFFF#16 _ (.mem (.aby 0xFFFF#16)) (idle.cpu.a ^^^ ·) 3 4 (by simp)⟩⟩

theorem witness_bitTestResults : Obligations.BitTestResults → ∃ t, exec (.bitAbs 0x2002#16) idle = .next t := fun h =>
  ⟨_, h idle 0#8 0x2002#16 _ (.mem (.abs 0x2002#16)) 3 4 (by simp)⟩

theorem witness_addWithCarry : Obligations.AddWithCarry → ∃ t, exec (.adcImm 0xFF#8) idle = .next t := fun h =>
  ⟨_, h idle 0xFF#8 0#8 0#16 _ (.imm 0xFF#8) 2 2 (by simp)⟩

theorem witness_subtractWithBorrow : Obligations.SubtractWithBorrow → ∃ t, exec (.sbcIzx 0xFF#8) idle = .next t :=
  fun h => ⟨_, h idle 0#8 0xFF#8 0#16 _ (.mem (.izx 0xFF#8)) 2 6 (by simp)⟩

theorem witness_compareResults : Obligations.CompareResults → ∃ t, exec (.cpyAbs 0x0200#16) idle = .next t := fun h =>
  ⟨_, h idle 0#8 0#8 0x0200#16 _ idle.cpu.y (.mem (.abs 0x0200#16)) 3 4 (by simp)⟩

theorem witness_modifyResults : Obligations.ModifyResults →
    (∃ t, exec (.incZp 0x10#8) idle = .next t) ∧ ∃ e, exec (.incAbs 0x8000#16) idle = .fault e := fun h =>
  ⟨⟨_, (h idle 0x10#8 0#16 _ (.zp 0x10#8) 2 5 (· + 1#8) (fun _ => idle.cpu.p.c) (by simp)).1 (by decide +kernel)⟩,
   ⟨_, (h idle 0#8 0x8000#16 _ (.abs 0x8000#16) 3 6 (· + 1#8) (fun _ => idle.cpu.p.c) (by simp)).2
     (by decide +kernel)⟩⟩

theorem witness_subroutineResults :
    ∃ t u, exec (.jsr 0x9000#16) idle = .next t ∧ exec .rts t = .next u := ⟨_, _, rfl, rfl⟩

theorem witness_branchResults : Obligations.BranchResults → ∃ t, exec (.bne 0x80#8) idle = .next t := fun h =>
  ⟨_, h idle 0x80#8 _ (!idle.cpu.p.z) (by simp)⟩

theorem witness_flagInstructions : Obligations.FlagInstructions → ∃ t, exec .sei idle = .next t := fun h =>
  ⟨_, h idle _ { idle.cpu.p with i := true } (by simp)⟩

theorem witness_nothingStoredFrame :
    (∃ t, exec (.ldaAbs 0x2007#16) idle = .next t ∧ ∃ o, shapeOf (.ldaAbs 0x2007#16) = .reads o) ∧
    (∃ t, exec .inx idle = .next t ∧ shapeOf .inx ∈ [Shape.accumulator, .registers, .branches]) ∧
    ∃ t, exec .pla idle = .next t ∧ shapeOf .pla = .pulls :=
  ⟨⟨_, rfl, _, rfl⟩, ⟨_, rfl, by decide⟩, ⟨_, rfl, rfl⟩⟩

theorem witness_storeFrameHolds :
    shapeOf (.staAbs 0x2000#16) = .stores (.abs 0x2000#16) ∧ ∃ t, exec (.staAbs 0x2000#16) idle = .next t :=
  ⟨rfl, exists_next (by decide +kernel)⟩

theorem witness_modifyFrameHolds :
    shapeOf (.rorZp 0xFF#8) = .modifies (.zp 0xFF#8) ∧ ∃ t, exec (.rorZp 0xFF#8) idle = .next t :=
  ⟨rfl, exists_next (by decide +kernel)⟩

theorem witness_pushFrameHolds : Obligations.PushFrameHolds →
    ∀ t, exec (.jsr 0x9000#16) idle = .next t → t.cpu.sp = 0xFB#8 := fun h t ht =>
  (h (.jsr 0x9000#16) idle t 0x9000#16 2 (by simp) ht).2.1

theorem witness_registerAndFlagWriters : ∃ t, exec .plp idle = .next t := ⟨_, rfl⟩

theorem witness_everyInstructionCompletes :
    writeRefused idle ((MemMode.abs 0x07FF#16).locate idle).ea = false ∧
      shapeOf (.staAbs 0x07FF#16) = .stores (.abs 0x07FF#16) := ⟨by decide +kernel, rfl⟩

theorem witness_stopsAreFaultsOfTwoKinds :
    (∃ e, step stuck = .fault e) ∧
      ∃ e, step (start 0x8000#16 [0x8D#8, 0x00#8, 0x80#8] ⟨0#8, 0#8, 0#8, 0xFD#8, 0x24#8⟩ []) = .fault e :=
  ⟨exists_fault (by decide +kernel), exists_fault (by decide +kernel)⟩

/-- `a` is where a write has no meaning on `s`. -/
abbrev meaningless (s : State) (a : Word) : Prop :=
  (0x4020 ≤ a.toNat ∧ a.toNat < 0x6000) ∨ (0x8000 ≤ a.toNat ∧ s.mapper = .nrom)

theorem witness_refusedWrites :
    meaningless idle 0x4020#16 ∧ meaningless idle 0x5FFF#16 ∧ meaningless idle 0x8000#16 ∧
    meaningless idle 0xFFFF#16 ∧ idle.params.strictMapperAccess = true ∧
    ({ idle with params := { strictMapperAccess := false } } : State).params.strictMapperAccess = false ∧
    ¬meaningless idle 0x401F#16 ∧ ¬meaningless idle 0x6000#16 ∧ ¬meaningless (withMapper (.uxrom 0#8)) 0x8000#16 ∧
    idle.cart.prgRamSize = 0 ∧ 0x6000 ≤ (0x6000#16).toNat ∧ (0x7FFF#16).toNat < 0x8000 := by
  refine ⟨?_, ?_, ?_, ?_, ?_, ?_, ?_, ?_, ?_, ?_, ?_, ?_⟩ <;> decide +kernel

theorem witness_step_next : ∃ t, step idle = .next t := exists_next (by decide +kernel)

theorem witness_stepAccounting : ∃ s t : State, step s = .next t := ⟨idle, witness_step_next⟩

theorem witness_busMirrorsAndLatch :
    ((0x1FFF#16).toNat < 0x2000 ∧ (0x07FF#16).toNat < 0x2000 ∧ (0x1FFF#16).toNat % 0x0800 = (0x07FF#16).toNat % 0x0800) ∧
    (isPpu 0x2000#16 ∧ isPpu 0x3FF8#16 ∧ (0x2000#16).toNat % 8 = (0x3FF8#16).toNat % 8) ∧
    prgRamWritable (withMapper .nrom) = true ∧ (0x4015#16).toNat ≠ 0x4014 :=
  ⟨by decide, ⟨⟨by decide, by decide⟩, ⟨by decide, by decide⟩, by decide⟩, by decide +kernel, by decide⟩

theorem witness_openBus :
    (isPpuReg 0x2000#16 0 ∧ isPpuReg 0x2001#16 1 ∧ isPpuReg 0x3FFB#16 3 ∧ isPpuReg 0x2005#16 5 ∧ isPpuReg 0x3FFE#16 6) ∧
    (0x4000 ≤ (0x4014#16).toNat ∧ (0x4014#16).toNat ≤ 0x4014) ∧
    (0x4018 ≤ (0x5FFF#16).toNat ∧ (0x5FFF#16).toNat < 0x6000) ∧
    (idle.cart.prgRamSize = 0 ∧ 0x6000 ≤ (0x6000#16).toNat ∧ (0x7FFF#16).toNat < 0x8000) ∧
    mmc3.prgRamProtect.getLsbD 7 = false := by
  refine ⟨⟨?_, ?_, ?_, ?_, ?_⟩, by decide, by decide, by decide +kernel, by decide⟩ <;>
    exact ⟨by decide, by decide, by decide⟩

theorem witness_oamDma :
    ((0x00#8).toNat < 0x20 ∧ (0x1F#8).toNat < 0x20) ∧ (0x60 ≤ (0x60#8).toNat ∧ 0x60 ≤ (0xFF#8).toNat) ∧ 255 < 256 := by
  decide

theorem witness_controllerProtocol : idle.pads.strobe = false := by decide +kernel

theorem witness_ppuControlStatusAndOam :
    (isPpuReg 0x2000#16 0 ∧ isPpuReg 0x3FF9#16 1 ∧ isPpuReg 0x2002#16 2 ∧ isPpuReg 0x3FFB#16 3 ∧ isPpuReg 0x2004#16 4) ∧
      (idle.ppu.mask.getLsbD 3 = false ∧ idle.ppu.mask.getLsbD 4 = false) := by
  refine ⟨⟨?_, ?_, ?_, ?_, ?_⟩, by decide +kernel⟩ <;> exact ⟨by decide, by decide, by decide⟩

theorem witness_ppuScrollAndAddress :
    isPpuReg 0x2005#16 5 ∧ isPpuReg 0x3FFE#16 6 ∧ idle.ppu.w = false ∧
      (busStore idle 0x2005#16 0xFF#8).ppu.w = true :=
  ⟨⟨by decide, by decide, by decide⟩, ⟨by decide, by decide, by decide⟩, by decide +kernel, by decide +kernel⟩

theorem witness_ppuDataAccess :
    isPpuReg 0x3FFF#16 7 ∧
      (vramAddr { idle with ppu := { idle.ppu with v := 0x3EFF#15 } }).toNat < 0x3F00 ∧
      0x3F00 ≤ (vramAddr { idle with ppu := { idle.ppu with v := 0x7F00#15 } }).toNat :=
  ⟨⟨by decide, by decide, by decide⟩, by decide +kernel, by decide +kernel⟩

theorem witness_ppuMemory :
    ((0x0000#14).toNat < 0x2000 ∧ (0x1FFF#14).toNat < 0x2000) ∧
      (0x2000 ≤ (0x2000#14).toNat ∧ (0x3EFF#14).toNat < 0x3F00) ∧ 0x3F00 ≤ (0x3F10#14).toNat ∧
      (16 : Nat) ∈ [16, 20, 24, 28] := by decide

/-- A PPU at a position of the picture. -/
def ppuAt (scanline : Int) (dot : Nat) : Ppu :=
  { idle.ppu with scanline := scanline, dot := dot, oddFrame := true, mask := 0x08#8 }

theorem ppuAt_inRange {scanline : Int} {dot : Nat} (h : (-1 ≤ scanline ∧ scanline ≤ 260) ∧ dot ≤ 340) :
    (ppuAt scanline dot).InRange :=
  ⟨h.1, h.2, by show idle.ppu.spriteCount ≤ 8; decide +kernel⟩

theorem witness_pictureTiming :
    (ppuAt 241 1).InRange ∧ (ppuAt (-1) 1).InRange ∧ (ppuAt (-1) 338).InRange ∧ (ppuAt 260 340).InRange ∧
      (ppuAt 239 340).InRange ∧ (ppuAt 0 0).InRange :=
  ⟨ppuAt_inRange (by decide), ppuAt_inRange (by decide), ppuAt_inRange (by decide), ppuAt_inRange (by decide),
    ppuAt_inRange (by decide), ppuAt_inRange (by decide)⟩

theorem witness_pixelMultiplexer :
    (0 ≤ (ppuAt 0 1).scanline ∧ (ppuAt 0 1).scanline ≤ 239 ∧ 1 ≤ (ppuAt 0 1).dot ∧ (ppuAt 0 1).dot ≤ 256) ∧
    (0 ≤ (ppuAt 239 256).scanline ∧ (ppuAt 239 256).scanline ≤ 239 ∧ 1 ≤ (ppuAt 239 256).dot ∧
      (ppuAt 239 256).dot ≤ 256) ∧ ¬(ppuAt 240 1).scanline ≤ 239 := by decide +kernel

theorem witness_frameLength :
    idle.ppu.InRange ∧ idle.ppu.mask.getLsbD 3 = false ∧ idle.ppu.mask.getLsbD 4 = false :=
  ⟨⟨by decide +kernel, by decide +kernel, by decide +kernel⟩, by decide +kernel, by decide +kernel⟩

/-- An APU at a point of its frame sequence, its sample reader about to fetch the last byte at 0xFFFF. -/
def apuAt (fiveStep : Bool) (fcCycle : Nat) : Apu :=
  { idle.apu with
    frame := { fiveStep := fiveStep, irqInhibit := false, frameIrq := false, fcCycle := fcCycle }
    dmc := { idle.apu.dmc with bytesRemaining := 1#12, curAddr := 0xFFFF#16 } }

theorem witness_frameSequencer :
    (apuAt false 7456).InRange ∧ (apuAt false 29827).InRange ∧ (apuAt false 29829).InRange ∧
      (apuAt true 37280).InRange ∧ (apuAt true 37281).InRange := by
  refine ⟨?_, ?_, ?_, ?_, ?_⟩ <;> constructor <;> decide +kernel

theorem witness_dmcFetch :
    (apuAt false 7456).InRange ∧ (apuAt false 7456).dmc.bufferFull = false ∧
      (apuAt false 7456).dmc.bytesRemaining ≠ 0#12 ∧ (apuAt false 7456).dmc.curAddr = 0xFFFF#16 ∧
      idle.apu.dmc.bytesRemaining = 0#12 :=
  ⟨witness_frameSequencer.1, by decide +kernel, by decide +kernel, by decide +kernel, by decide +kernel⟩

theorem witness_mapperRegisters :
    (0x8000 ≤ (0x8000#16).toNat ∧ 0x8000 ≤ (0xFFFF#16).toNat) ∧
    (withMapper (.mmc1 { mmc1 with writeCount := 4 })).mapper = .mmc1 { mmc1 with writeCount := 4 } ∧
    mmc1.shift = 0#5 ∧ mmc1.writeCount = 0 ∧ (withMapper (.mmc3 mmc3)).mapper = .mmc3 mmc3 ∧
    (withMapper (.uxrom 0xFF#8)).mapper = .uxrom 0xFF#8 ∧ (withMapper (.cnrom 0xFF#8)).mapper = .cnrom 0xFF#8 ∧
    (withMapper (.aorom 7#3 true)).mapper = .aorom 7#3 true ∧ idle.mapper = .nrom :=
  ⟨by decide, rfl, rfl, rfl, rfl, rfl, rfl, rfl, rfl⟩

theorem witness_mapperWindows :
    (0x8000 ≤ (0x8000#16).toNat ∧ 0x8000 ≤ (0xFFFF#16).toNat) ∧
      bigCart.wf ∧ { bigCart with mapper := .mmc3 }.wf ∧ (withMapper (.mmc3 mmc3)).cart.wf ∧
        ∀ m, (withMapper m).mapper = m :=
  ⟨by decide, by decide, by decide, by decide, fun _ => rfl⟩

theorem witness_scanlineCounter :
    (withMapper (.mmc3 mmc3)).mapper = .mmc3 mmc3 ∧ (0x1FFF#14).toNat < 0x2000 ∧ 0x2000 ≤ (0x2000#14).toNat ∧ mmc3.irqReload = true ∧
      mmc3.irqEnable = true ∧ mmc3.irqFlag = false ∧ mmc3.lastA12 = false ∧ 5 ≤ mmc3.irqLatch.toNat + 1 := by
  decide +kernel

/-- `idle` has the invariant. -/
theorem idle_inv : idle.Inv where
  arrays := by constructor <;> decide +kernel
  ppu := by constructor <;> decide +kernel
  apu := by constructor <;> decide +kernel
  mapper := ⟨by decide +kernel, fun m h => by cases h⟩
  cart := by decide +kernel
  params := by decide +kernel

theorem witness_invariantAtReset :
    (∃ s, powerOn resetCartridge {} {} = some s) ∧ Memory.wf 2048 [(0, 0xFF#8), (2047, 1#8)] ∧
      Cells.wf 32 [(31, 0x3F#6)] ∧ ∃ s : State, s.Inv :=
  ⟨⟨_, if_pos (by decide)⟩, by decide, by decide, idle, idle_inv⟩

theorem witness_invariantPreserved : ∃ s t : State, s.Inv ∧ step s = .next t :=
  have ⟨t, h⟩ := witness_step_next
  ⟨idle, t, idle_inv, h⟩

theorem witness_powerOnAndReset : ∃ s, powerOn resetCartridge {} {} = some s := ⟨_, if_pos (by decide)⟩

end Sys2Proof.Tests
end

section
/-! SUPPORT. Two shapes of instruction that may fault, inverted: what they leave when they answer. -/

namespace Sys2Proof.Machine

/-- A store that answers made its write. -/
theorem storeOp_next {value : Cpu → Byte} {m : MemMode} {base : Nat} {s t : State}
    (h : storeOp value m base s = .next t) :
    let u := busStore (m.locate s).after (m.locate s).ea (value s.cpu)
    t = ended u { u.cpu with pc := past s.cpu m.length } base := by
  rw [storeOp_eq] at h
  split at h
  · cases h
  · cases h; rfl

/-- A read-modify-write instruction that answers made its read and its write. -/
theorem rmwOp_next {f : Byte → Flags → Computed} {m : MemMode} {base : Nat} {s t : State}
    (h : rmwOp f m base s = .next t) :
    let r := busRead (m.locate s).after (m.locate s).ea
    let c := f r.1 s.cpu.p
    let u := busStore r.2 (m.locate s).ea c.value
    t = ended u { u.cpu with p := c.flags, pc := past s.cpu m.length } base := by
  rw [rmwOp_eq] at h
  split at h
  · cases h
  · cases h; rfl

end Sys2Proof.Machine
end

section
/-! SUPPORT. What the part of a CPU step before `settle` keeps, and from it what a whole step keeps: the
invariant, and the counts of 10_state.md R28 and 61_bus_dma_controllers.md R350. -/

namespace Sys2Proof.Machine

/-- What the poll and the instruction or the interrupt service it selects keep: only `settle` counts
cycles, only the APU's steps move its parity, and nothing replaces the cartridge, the parameters or the
mapper. -/
structure CpuKeeps (s t : State) : Prop where
  cycles : t.cpu.cycles = s.cpu.cycles
  parity : t.apu.cycleParity = s.apu.cycleParity
  cart : t.cart = s.cart
  params : t.params = s.params
  kind : t.mapper.kind = s.mapper.kind
  inv : s.Inv → t.Inv

theorem CpuKeeps.trans {s t u : State} (h : CpuKeeps s t) (h' : CpuKeeps t u) : CpuKeeps s u where
  cycles := h'.cycles.trans h.cycles
  parity := h'.parity.trans h.parity
  cart := h'.cart.trans h.cart
  params := h'.params.trans h.params
  kind := h'.kind.trans h.kind
  inv := h'.inv ∘ h.inv

/-! ### Bus accesses -/

theorem ReadEffect.cpuKeeps {s t : State} (h : ReadEffect s t) : CpuKeeps s t where
  cycles := by rw [h.cpu]
  parity := by rw [h.apu]
  cart := h.cart
  params := h.params
  kind := banks_kind h.mapper
  inv := h.inv

theorem busStore_cpuKeeps (s : State) (a : Word) (v : Byte) : CpuKeeps s (busStore s a v) where
  cycles := by rw [(busStore_frame s a v).cpu]
  parity := by rw [(busStore_frame s a v).apu.kept]
  cart := (busStore_frame s a v).cart
  params := (busStore_frame s a v).params
  kind := busStore_kind s a v
  inv h := busStore_inv h a v

/-! ### Changes of the CPU registers -/

/-- A change of RAM, the bus latch, the CPU registers and `cyc`, as pushes, pulls and interrupts make it. -/
theorem CpuKeeps.ofRam {s : State} {ram : Memory} (bus : Byte) {c : Cpu} (cyc : Nat)
    (hr : Memory.wf 2048 s.ram → Memory.wf 2048 ram) (hc : c.cycles = s.cpu.cycles) :
    CpuKeeps s { s with ram := ram, dataBus := bus, cpu := c, cyc := cyc } where
  cycles := hc
  parity := rfl
  cart := rfl
  params := rfl
  kind := rfl
  inv h := (h.setRam (hr h.arrays.ram)).of_eq rfl rfl rfl rfl rfl rfl rfl

/-- The end of an instruction, which moves no cycle count. -/
theorem CpuKeeps.ended {s t : State} (h : CpuKeeps s t) {c : Cpu} (cyc : Nat)
    (hc : c.cycles = t.cpu.cycles) : CpuKeeps s (ended t c cyc) :=
  h.trans (.ofRam t.dataBus cyc id hc)

/-! ### Instructions -/

theorem branch_cycles (cond : Bool) (d : Byte) (s : State) :
    (branch cond d s).cpu.cycles = s.cpu.cycles := by
  cases cond <;> rfl

/-- Every instruction that answers, shape by shape. -/
theorem exec_cpuKeeps {i : Instr} {s t : State} (h : exec i s = .next t) : CpuKeeps s t := by
  have hs := exec_shape i s
  rw [h] at hs
  have refl : CpuKeeps s s := (ReadEffect.refl s).cpuKeeps
  cases hsh : shapeOf i <;> rw [hsh] at hs
  case reads o =>
    obtain ⟨f, base, e, hf⟩ := hs
    cases e
    rw [readOp_eq]
    refine (fetch_effect o s).cpuKeeps.ended _ ?_
    exact (hf _ _).2.2.1.trans (by rw [(fetch_effect o s).cpu])
  case stores m =>
    obtain ⟨value, base, e⟩ := hs
    rw [storeOp_next e.symm]
    exact ((locate_effect m s).cpuKeeps.trans (busStore_cpuKeeps _ _ _)).ended _ rfl
  case modifies m =>
    obtain ⟨f, base, e, -⟩ := hs
    rw [rmwOp_next e.symm]
    exact ((rmw_effect m s).cpuKeeps.trans (busStore_cpuKeeps _ _ _)).ended _ rfl
  case accumulator =>
    obtain ⟨f, e⟩ := hs
    cases e
    exact refl.ended _ rfl
  case registers =>
    obtain ⟨f, e, hf⟩ := hs
    cases e
    exact refl.ended _ (hf s.cpu).2.1
  case pushes =>
    obtain ⟨ram, bus, sp, p, pc, cyc, hr, e⟩ := hs
    cases e
    exact .ofRam _ _ hr rfl
  case pulls =>
    obtain ⟨bus, a, sp, p, pc, cyc, e⟩ := hs
    cases e
    exact .ofRam _ _ id rfl
  case jumps =>
    obtain ⟨target, cyc, u, e, hu⟩ := hs
    cases e
    exact hu.cpuKeeps.ended _ rfl
  case branches =>
    obtain ⟨cond, d, e⟩ := hs
    cases e
    rw [branch_eq]
    exact refl.ended _ (branch_cycles cond d s)

theorem undefinedOpcode_cpuKeeps {op : Byte} {s t : State} (h : undefinedOpcode op s = .next t) :
    CpuKeeps s t := by
  unfold undefinedOpcode at h
  split at h
  · rename_i form _
    dsimp only at h
    have hb := fetchBytes_effect (nopOperandBytes form.mode) (s.cpu.pc + 1#16) s
    generalize fetchBytes _ _ s = ops at h hb
    obtain ⟨u, n, hu, e⟩ := execUnofficialNop_eq form (ops.1.getD 0 0#8) (ops.1.getD 1 0#8) ops.2
    cases e.symm.trans h
    exact (hb.trans hu).cpuKeeps.ended _ (by rw [hu.cpu])
  · cases h

theorem fetchInstr_effect (s : State) : ReadEffect s (fetchInstr s).after :=
  (busRead_effect s s.cpu.pc).trans (fetchBytes_effect _ _ _)

theorem cpuInstruction_cpuKeeps {s t : State} (h : cpuInstruction s = .next t) : CpuKeeps s t := by
  unfold cpuInstruction at h
  dsimp only at h
  split at h
  · exact (fetchInstr_effect s).cpuKeeps.trans (exec_cpuKeeps h)
  · exact (fetchInstr_effect s).cpuKeeps.trans (undefinedOpcode_cpuKeeps h)

/-! ### Interrupt services and the poll -/

theorem serviceInterrupt_cpuKeeps (s : State) {vector : Word} (h1 : 0x8000 ≤ vector.toNat)
    (h2 : vector.toNat < 0xFFFF) : CpuKeeps s (serviceInterrupt vector s) := by
  rw [serviceInterrupt, takeInterrupt_eq _ _ _ _ h1 h2]
  exact .ofRam _ _ (pushedFrame_wf · _ _ _) rfl

theorem pollAndRun_cpuKeeps {s t : State} (h : pollAndRun s = .next t) : CpuKeeps s t := by
  unfold pollAndRun at h
  split at h
  · rw [← Host.Outcome.next.inj h]
    have hn : CpuKeeps s (s.setNmiPending false) := .ofRam s.dataBus s.cyc id rfl
    exact hn.trans (serviceInterrupt_cpuKeeps _ (by decide) (by decide))
  split at h
  · rw [← Host.Outcome.next.inj h]
    exact serviceInterrupt_cpuKeeps s (by decide) (by decide)
  · exact cpuInstruction_cpuKeeps h

/-! ### The step -/

/-- A step that answers: the poll's part, then `settle`, then the devices for as long as it counted. -/
theorem step_next {s t : State} (h : step s = .next t) :
    ∃ u, pollAndRun s = .next u ∧ t = advance (u.cyc + u.pendingStall) (settle u) := by
  simp only [step, tick, cpuStep] at h
  cases hp : pollAndRun s with
  | next u => rw [hp] at h; cases h; exact ⟨u, rfl, rfl⟩
  | fault e => rw [hp] at h; cases h
  | refused e => rw [hp] at h; cases h

theorem State.Inv.settle {s : State} (h : s.Inv) : (settle s).Inv := h.of_eq rfl rfl rfl rfl rfl rfl rfl

/-- Dots keep the invariant. -/
theorem DotFrame.inv {s t : State} (d : DotFrame s t) (h : s.Inv) : t.Inv := by
  have arrays : State.ArraysWf (s.setPpu t.ppu) :=
    { h.arrays with
      vram := d.vram ▸ h.arrays.vram
      palette := d.palette ▸ h.arrays.palette
      oam := d.oam ▸ h.arrays.oam
      secondaryOam := d.secondary h.arrays.secondaryOam
      frameBuffer := d.picture h.arrays.frameBuffer }
  have mapper : State.MapperWf (s.setMapper t.mapper) := MapperWf.of_banks h.mapper d.banks rfl
  rw [d.rest]
  exact ⟨{ arrays with }, d.inRange h.ppu, h.apu, { mapper with }, h.cart, h.params⟩

/-- APU steps keep the invariant. -/
theorem ApuFrame.inv {n : Nat} {s t : State} (f : ApuFrame n s t) (h : s.Inv) : t.Inv := by
  rw [f.rest]
  exact (h.setApu f.inRange).of_eq rfl rfl rfl rfl rfl rfl rfl

theorem State.Inv.advance {s : State} (h : s.Inv) (cyc : Nat) : (advance cyc s).Inv :=
  have hd := (ppuRun_frame (3 * cyc) s).inv h
  (apuRun_frame cyc hd.apu).inv hd

/-- What the devices' run of `cyc` cycles keeps and counts. -/
theorem advance_keeps (cyc : Nat) (s : State) :
    (advance cyc s).cpu.cycles = s.cpu.cycles ∧ (advance cyc s).cyc = s.cyc ∧
      (advance cyc s).apu.cycleParity = (s.apu.cycleParity ^^ decide (cyc % 2 = 1)) ∧
      (∃ k ≤ cyc, (advance cyc s).pendingStall = s.pendingStall + k * s.params.dmcStall) ∧
      (advance cyc s).cart = s.cart ∧ (advance cyc s).params = s.params ∧
      (advance cyc s).mapper.kind = s.mapper.kind := by
  have d := ppuRun_frame (3 * cyc) s
  unfold advance
  generalize ppuRun (3 * cyc) s = u at d ⊢
  have k := apuRun_keeps cyc u
  have hp : u.params = s.params := by rw [d.rest]
  refine ⟨?_, ?_, ?_, ?_, ?_, k.params.trans hp, (banks_kind k.banks).trans (banks_kind d.banks)⟩
  · rw [k.cpu, d.rest]
  · rw [k.cyc, d.rest]
  · rw [k.parity, d.rest]
  · obtain ⟨n, hn, e⟩ := k.stall
    exact ⟨n, hn, by rw [e, hp, d.rest]⟩
  · rw [k.cart, d.rest]

/-- Settles O60: the CPU step keeps the invariant access by access, then the dots and the APU's steps do. -/
theorem invariantPreserved : Obligations.InvariantPreserved := by
  unfold Obligations.InvariantPreserved
  intro s t hs h
  obtain ⟨u, hu, rfl⟩ := step_next h
  exact ((pollAndRun_cpuKeeps hu).inv hs).settle.advance _

/-- Settles O39: `settle` counts what the CPU step took and clears the stalls, the devices' run does the
rest. -/
theorem stepAccounting : Obligations.StepAccounting := by
  unfold Obligations.StepAccounting
  intro s t h
  obtain ⟨u, hu, rfl⟩ := step_next h
  have k := pollAndRun_cpuKeeps hu
  obtain ⟨cycles, cyc, parity, ⟨n, hn, stall⟩, cart, params, kind⟩ :=
    advance_keeps (u.cyc + u.pendingStall) (settle u)
  rw [cyc]
  refine ⟨?_, ?_, ⟨n, hn, ?_⟩, cart.trans k.cart, params.trans k.params, kind.trans k.kind⟩
  · rw [cycles, ← k.cycles]; rfl
  · rw [parity, ← k.parity]; rfl
  · rw [stall, ← k.params]; exact Nat.zero_add _

end Sys2Proof.Machine
end

section
/-! SUPPORT. The invariant at power-on and after a runtime reset. -/

namespace Sys2Proof.Machine

/-! ### `cpu_reset()` -/

/-- The reset sequence reads its vector and sets CPU registers: the invariant stays. -/
theorem State.Inv.cpuReset {s : State} (h : s.Inv) : (cpuReset s).Inv :=
  (((read16_effect _ Config.resetVector).inv (h.setCpu _)).setCpu _).setPendingStall 0

/-! ### Power-on -/

theorem Ppu.powerOn_inRange (vram oam : Memory) (palette : Cells 6) :
    (Ppu.powerOn vram oam palette).InRange :=
  ⟨⟨(by decide : (-1 : Int) ≤ 0), (by decide : (0 : Int) ≤ 260)⟩, Nat.zero_le _, Nat.zero_le _⟩

theorem Apu.powerOn_inRange : Apu.powerOn.InRange := by
  constructor <;> decide

theorem MapperState.powerOn_kind (k : MapperKind) : (MapperState.powerOn k).kind = k := by
  cases k <;> rfl

theorem MapperState.powerOn_writeCount {k : MapperKind} {m : Mmc1} (h : MapperState.powerOn k = .mmc1 m) :
    m.writeCount ≤ 4 := by
  cases k <;> cases h
  exact Nat.zero_le 4

/-- The open memory contents are canonical and inside their lengths. -/
structure PowerOnCanonical (o : PowerOnValues) : Prop where
  ram : Memory.wf 2048 o.ram
  vram : Memory.wf 2048 o.vram
  oam : Memory.wf 256 o.oam
  palette : Cells.wf 32 o.palette
  prgRam : Memory.wf 8192 o.prgRam
  chrRam : Memory.wf 8192 o.chrRam
  cartVram : Memory.wf 2048 o.cartVram

/-- The machine built from a legal cartridge, legal parameters and canonical contents has the invariant. -/
theorem State.built_inv {c : Cartridge} {k : Params} {o : PowerOnValues} (hc : c.wf) (hk : k.wf)
    (ho : PowerOnCanonical o) : (State.built c k o).Inv where
  arrays :=
    { ram := ho.ram, vram := ho.vram, palette := ho.palette, oam := ho.oam, secondaryOam := fill_wf,
      frameBuffer := Cells.wf_nil _, prgRam := ho.prgRam, chrRam := ho.chrRam, cartVram := ho.cartVram }
  ppu := Ppu.powerOn_inRange _ _ _
  apu := Apu.powerOn_inRange
  mapper := ⟨MapperState.powerOn_kind _, fun _ => MapperState.powerOn_writeCount⟩
  cart := hc
  params := hk

theorem State.reset_inv : State.reset.Inv := by
  have nil : ∀ n, Memory.wf n [] := Cells.wf_nil
  have hb : (State.built resetCartridge {} {}).Inv :=
    State.built_inv (by decide) (by decide)
      ⟨nil _, nil _, nil _, Cells.wf_nil _, nil _, nil _, nil _⟩
  exact hb.setCpu State.reset.cpu

theorem powerOn_inv {c : Cartridge} {k : Params} {o : PowerOnValues} {s : State}
    (h : powerOn c k o = some s) (ho : PowerOnCanonical o) : s.Inv := by
  unfold powerOn at h
  split at h
  · rename_i hwf
    cases h
    exact (State.built_inv hwf.1 hwf.2 ho).cpuReset
  · cases h

/-! ### Runtime reset -/

theorem Apu.InRange.runtimeReset {a : Apu} (h : a.InRange) : a.runtimeReset.InRange where
  lfsr := h.lfsr
  bitsRemaining := h.bitsRemaining
  sampleAddr := h.sampleAddr
  curAddr hb := absurd rfl hb
  noiseTimer := h.noiseTimer
  dmcTimer := h.dmcTimer
  fcCycle := by
    show 0 < if a.frame.fiveStep then 37282 else 29830
    split <;> decide
  sampleAcc := h.sampleAcc

/-- The PPU's runtime-reset column keeps every array and puts the position back to (0, 0). -/
theorem State.Inv.ppuReset {s : State} (h : s.Inv) : (s.setPpu s.ppu.runtimeReset).Inv where
  arrays := { h.arrays with }
  ppu := { Ppu.powerOn_inRange s.ppu.vram s.ppu.oam s.ppu.palette with }
  apu := h.apu
  mapper := ⟨h.mapper.kind, h.mapper.writeCount⟩
  cart := h.cart
  params := h.params

theorem State.Inv.runtimeReset {s : State} (h : s.Inv) : (runtimeReset s).Inv :=
  ((h.ppuReset.setApu h.apu.runtimeReset).cpuReset).setPendingStall _

/-- Settles O59: the built state has the invariant and the reset sequence keeps it. -/
theorem invariantAtReset : Obligations.InvariantAtReset := by
  unfold Obligations.InvariantAtReset
  refine ⟨State.reset_inv, ?_, fun s => State.Inv.runtimeReset⟩
  intro c k o s h ram vram oam palette prgRam chrRam cartVram
  exact powerOn_inv h ⟨ram, vram, oam, palette, prgRam, chrRam, cartVram⟩

end Sys2Proof.Machine
end

section
/-! SUPPORT. Which registers and flags each mnemonic writes: what a mnemonic does to the CPU registers is
said once, by two functions of the mnemonic that every instruction is shown to run, and checked mnemonic
by mnemonic against the writers of 10_state.md R21, R22, R27. -/

namespace Sys2Proof.Machine

/-! ### What a mnemonic does to the registers -/

/-- The CPU registers after an instruction that neither stores nor modifies a Byte at a mode's address, given
the Byte it reads or pulls; `PC`, and the moves of `SP` by pushes and pulls, left aside. -/
def registerEffect : Mnemonic → Cpu → Byte → Cpu
  | .lda, c, b => c.loadA b
  | .ldx, c, b => c.loadX b
  | .ldy, c, b => c.loadY b
  | .tax, c, _ => c.loadX c.a
  | .tay, c, _ => c.loadY c.a
  | .txa, c, _ => c.loadA c.x
  | .tya, c, _ => c.loadA c.y
  | .tsx, c, _ => c.loadX c.sp
  | .txs, c, _ => c.setSp c.x
  | .pla, c, b => c.loadA b
  | .plp, c, b => c.setP (Flags.ofByte b)
  | .and, c, b => c.loadA (c.a &&& b)
  | .ora, c, b => c.loadA (c.a ||| b)
  | .eor, c, b => c.loadA (c.a ^^^ b)
  | .bit, c, b => c.setP (bitTest c.a b c.p)
  | .adc, c, b => c.setAcc (adc c.a b c.p)
  | .sbc, c, b => c.setAcc (sbc c.a b c.p)
  | .cmp, c, b => c.setP (compare c.a b c.p)
  | .cpx, c, b => c.setP (compare c.x b c.p)
  | .cpy, c, b => c.setP (compare c.y b c.p)
  | .inx, c, _ => c.loadX (c.x + 1#8)
  | .iny, c, _ => c.loadY (c.y + 1#8)
  | .dex, c, _ => c.loadX (c.x - 1#8)
  | .dey, c, _ => c.loadY (c.y - 1#8)
  | .clc, c, _ => c.setP { c.p with c := false }
  | .sec, c, _ => c.setP { c.p with c := true }
  | .cli, c, _ => c.setP { c.p with i := false }
  | .sei, c, _ => c.setP { c.p with i := true }
  | .cld, c, _ => c.setP { c.p with d := false }
  | .sed, c, _ => c.setP { c.p with d := true }
  | .clv, c, _ => c.setP { c.p with v := false }
  | .brk, c, _ => c.setP { c.p with i := true }
  | .rti, c, b => c.setP (Flags.ofByte b)
  | _, c, _ => c

/-- The Byte and the flags of an instruction that changes a Byte of memory, or A, in place. -/
def modifyEffect : Mnemonic → Byte → Flags → Computed
  | .inc => increment
  | .dec => decrement
  | .asl => asl
  | .lsr => lsr
  | .rol => rol
  | .ror => ror
  | _ => fun b p => ⟨b, p⟩

/-- What an instruction of a shape and a mnemonic does to the CPU registers. -/
def MnemonicSays (sh : Shape) (m : Mnemonic) (s : State) (r : Result) : Prop :=
  match sh with
  | .reads o => ∃ base, r = .next (readOp (registerEffect m) o base s)
  | .stores k => ∃ value base, r = storeOp value k base s
  | .modifies k => ∃ base, r = rmwOp (modifyEffect m) k base s
  | .accumulator => r = .next (accOp (modifyEffect m) 2 s)
  | .registers => r = .next (registerOp 2 (fun c => registerEffect m c 0#8) s)
  | .pushes | .pulls => ∃ b sp pc t, r = .next t ∧
      t.cpu = ((registerEffect m s.cpu b).setSp sp).setPc pc
  | .jumps | .branches => ∃ pc t, r = .next t ∧ t.cpu = s.cpu.setPc pc

/-- Every instruction does to the CPU registers what its mnemonic says. -/
theorem exec_mnemonic (i : Instr) (s : State) : MnemonicSays (shapeOf i) (mnemonicOf i) s (exec i s) := by
  have branches (cond : Bool) (d : Byte) :
      ∃ pc t, Host.Outcome.next (branch cond d s) = (.next t : Result) ∧ t.cpu = s.cpu.setPc pc := by
    cases cond <;> exact ⟨_, _, rfl, rfl⟩
  cases i
  case pha | php => exact ⟨0#8, _, _, _, rfl, by rw [push_eq]; rfl⟩
  case jsr a => exact ⟨0#8, _, _, _, rfl, by rw [push16, push_eq, push_eq]; rfl⟩
  case brk => exact ⟨0#8, _, _, _, rfl, by rw [takeInterrupt_eq _ _ _ _ (by decide) (by decide)]; rfl⟩
  case pla | plp => exact ⟨(pull s).1, _, _, _, rfl, by rw [pull_eq]; rfl⟩
  case rts => exact ⟨0#8, _, _, _, rfl, by rw [pull16, pull_eq, pull_eq]; rfl⟩
  case rti => exact ⟨_, _, _, _, rfl, by rw [returnFromInterrupt_eq]; rfl⟩
  case jmpAbs a => exact ⟨_, _, rfl, rfl⟩
  case jmpInd a => exact ⟨(readIndirect s a).1, _, rfl, by
    show (readIndirect s a).2.cpu.setPc _ = _; rw [readIndirect, (readPair_effect s _ _).cpu]⟩
  case bcc | bcs | beq | bne | bmi | bpl | bvc | bvs => exact branches _ _
  case aslAcc | lsrAcc | rolAcc | rorAcc => rfl
  case tax | tay | txa | tya | tsx | txs | inx | iny | dex | dey | clc | sec | cli | sei | cld | sed | clv
    | nop => rfl
  case staZp | staZpx | staAbs | staAbx | staAby | staIzx | staIzy | stxZp | stxZpy | stxAbs | styZp | styZpx
    | styAbs => exact ⟨_, _, rfl⟩
  all_goals exact ⟨_, rfl⟩

/-! ### The writers -/

/-- The registers and flags in which `d` differs from `c` are ones the rules let an instruction of the mnemonic
and the shape write. -/
structure WritersOnly (m : Mnemonic) (sh : Shape) (c d : Cpu) : Prop where
  a : d.a ≠ c.a → m ∈ writersA ∨ sh = .accumulator
  x : d.x ≠ c.x → m ∈ writersX
  y : d.y ≠ c.y → m ∈ writersY
  sp : d.sp ≠ c.sp → m ∈ writersSp
  flagC : d.p.c ≠ c.p.c → m ∈ writersC
  flagZ : d.p.z ≠ c.p.z → m ∈ writersZN
  flagN : d.p.n ≠ c.p.n → m ∈ writersZN
  flagI : d.p.i ≠ c.p.i → m ∈ writersI
  flagD : d.p.d ≠ c.p.d → m ∈ writersD
  flagV : d.p.v ≠ c.p.v → m ∈ writersV
  cycles : d.cycles = c.cycles
  nmi : d.nmiPending ≠ c.nmiPending → ∃ k, sh = .stores k ∨ sh = .modifies k

namespace WritersOnly

variable {m : Mnemonic} {sh : Shape} {c d : Cpu}

/-- Nothing is written. -/
theorem refl (c : Cpu) : WritersOnly m sh c c := by
  constructor
  case cycles => rfl
  all_goals exact absurd rfl

/-- `PC` is every instruction's to write. -/
theorem setPc (h : WritersOnly m sh c d) (pc : Word) : WritersOnly m sh c (d.setPc pc) := { h with }

theorem setSp (h : WritersOnly m sh c d) (hm : m ∈ writersSp) (sp : Byte) :
    WritersOnly m sh c (d.setSp sp) :=
  { h with sp := fun _ => hm }

theorem setNmi (h : WritersOnly m sh c d) (hs : ∃ k, sh = .stores k ∨ sh = .modifies k) (b : Bool) :
    WritersOnly m sh c { d with nmiPending := b } :=
  { h with nmi := fun _ => hs }

/-- A write of the flags. -/
theorem setP {q : Flags} (hc : q.c ≠ c.p.c → m ∈ writersC) (hz : m ∈ writersZN ∨ q.z = c.p.z ∧ q.n = c.p.n)
    (hi : q.i ≠ c.p.i → m ∈ writersI) (hd : q.d ≠ c.p.d → m ∈ writersD) (hv : q.v ≠ c.p.v → m ∈ writersV) :
    WritersOnly m sh c (c.setP q) :=
  { refl c with
    flagC := hc
    flagZ := fun h => hz.resolve_right fun e => h e.1
    flagN := fun h => hz.resolve_right fun e => h e.2
    flagI := hi
    flagD := hd
    flagV := hv }

/-- A write of A and the flags. -/
theorem setAcc {r : Computed} (ha : m ∈ writersA ∨ sh = .accumulator) (h : WritersOnly m sh c (c.setP r.flags)) :
    WritersOnly m sh c (c.setAcc r) :=
  { h with a := fun _ => ha }

/-- Z and N from a Byte. -/
theorem setZN (hz : m ∈ writersZN) (v : Byte) : WritersOnly m sh c (c.setP (c.p.setZN v)) :=
  setP (absurd rfl) (.inl hz) (absurd rfl) (absurd rfl) (absurd rfl)

theorem loadA (ha : m ∈ writersA) (hz : m ∈ writersZN) (v : Byte) : WritersOnly m sh c (c.loadA v) :=
  { setZN hz v with a := fun _ => .inl ha }

theorem loadX (hx : m ∈ writersX) (hz : m ∈ writersZN) (v : Byte) : WritersOnly m sh c (c.loadX v) :=
  { setZN hz v with x := fun _ => hx }

theorem loadY (hy : m ∈ writersY) (hz : m ∈ writersZN) (v : Byte) : WritersOnly m sh c (c.loadY v) :=
  { setZN hz v with y := fun _ => hy }

end WritersOnly

/-- Mnemonic by mnemonic, the registers `registerEffect` writes are the rules'. -/
theorem registerEffect_writers (m : Mnemonic) (sh : Shape) (c : Cpu) (b : Byte) :
    WritersOnly m sh c (registerEffect m c b) := by
  cases m
  case lda | txa | tya | pla | and | ora | eor => exact .loadA (by decide) (by decide) _
  case ldx | tax | tsx | inx | dex => exact .loadX (by decide) (by decide) _
  case ldy | tay | iny | dey => exact .loadY (by decide) (by decide) _
  case txs => exact (WritersOnly.refl c).setSp (by decide) _
  case adc | sbc =>
    exact .setAcc (.inl (by decide))
      (.setP (fun _ => by decide) (.inl (by decide)) (absurd rfl) (absurd rfl) (fun _ => by decide))
  case cmp | cpx | cpy =>
    exact .setP (fun _ => by decide) (.inl (by decide)) (absurd rfl) (absurd rfl) (absurd rfl)
  case bit => exact .setP (absurd rfl) (.inl (by decide)) (absurd rfl) (absurd rfl) (fun _ => by decide)
  case plp | rti =>
    exact .setP (fun _ => by decide) (.inl (by decide)) (fun _ => by decide) (fun _ => by decide)
      (fun _ => by decide)
  case clc | sec => exact .setP (fun _ => by decide) (.inr ⟨rfl, rfl⟩) (absurd rfl) (absurd rfl) (absurd rfl)
  case cli | sei | brk =>
    exact .setP (absurd rfl) (.inr ⟨rfl, rfl⟩) (fun _ => by decide) (absurd rfl) (absurd rfl)
  case cld | sed => exact .setP (absurd rfl) (.inr ⟨rfl, rfl⟩) (absurd rfl) (fun _ => by decide) (absurd rfl)
  case clv => exact .setP (absurd rfl) (.inr ⟨rfl, rfl⟩) (absurd rfl) (absurd rfl) (fun _ => by decide)
  all_goals exact .refl c

/-- Mnemonic by mnemonic, the flags `modifyEffect` writes are the rules'. -/
theorem modifyEffect_writers (m : Mnemonic) (sh : Shape) (c : Cpu) (b : Byte) :
    WritersOnly m sh c (c.setP (modifyEffect m b c.p).flags) := by
  cases m
  case inc | dec => exact .setZN (by decide) _
  case asl | lsr | rol | ror =>
    exact .setP (fun _ => by decide) (.inl (by decide)) (absurd rfl) (absurd rfl) (absurd rfl)
  all_goals exact .refl c

/-- Whatever pushes or pulls is a writer of `SP` (10_state.md R22). -/
theorem mem_writersSp {i : Instr} (h : shapeOf i = .pushes ∨ shapeOf i = .pulls) :
    mnemonicOf i ∈ writersSp := by
  cases i
  case pha | php | jsr | brk | pla | plp | rts | rti => simp [mnemonicOf, writersSp]
  all_goals simp [shapeOf] at h

/-- A write from a state with the CPU registers of `s` leaves them but for the NMI latch. -/
theorem busStore_cpu {s u : State} (h : u.cpu = s.cpu) (a : Word) (v : Byte) :
    ∃ n, (busStore u a v).cpu = { s.cpu with nmiPending := n } :=
  ⟨_, h ▸ (busStore_frame u a v).cpu⟩

/-- A store writes `PC`, and the NMI latch where it reaches PPUCTRL. -/
theorem storeOp_cpu {value : Cpu → Byte} {k : MemMode} {base : Nat} {s t : State}
    (h : storeOp value k base s = .next t) : ∃ n pc, t.cpu = ({ s.cpu with nmiPending := n } : Cpu).setPc pc := by
  obtain ⟨n, hn⟩ := busStore_cpu (locate_cpu k s) (k.locate s).ea (value s.cpu)
  refine ⟨n, past s.cpu k.length, ?_⟩
  rw [storeOp_next h, ← hn]
  rfl

/-- A read-modify-write instruction writes the computed flags besides. -/
theorem rmwOp_cpu {f : Byte → Flags → Computed} {k : MemMode} {base : Nat} {s t : State}
    (h : rmwOp f k base s = .next t) :
    ∃ b n pc, t.cpu = (({ s.cpu with nmiPending := n } : Cpu).setP (f b s.cpu.p).flags).setPc pc := by
  let b := (busRead (k.locate s).after (k.locate s).ea).1
  obtain ⟨n, hn⟩ := busStore_cpu (rmw_effect k s).cpu (k.locate s).ea (f b s.cpu.p).value
  refine ⟨b, n, past s.cpu k.length, ?_⟩
  rw [rmwOp_next h, ← hn]
  rfl

/-- An instruction that answers writes only the registers and flags the rules give it. -/
theorem exec_writers {i : Instr} {s t : State} (h : exec i s = .next t) :
    WritersOnly (mnemonicOf i) (shapeOf i) s.cpu t.cpu := by
  have hs := exec_mnemonic i s
  rw [h] at hs
  have effect := registerEffect_writers (mnemonicOf i) (shapeOf i) s.cpu
  cases hsh : shapeOf i <;> rw [hsh] at hs effect
  case reads o =>
    obtain ⟨base, e⟩ := hs
    cases e
    rw [readOp_eq]
    exact (effect _).setPc _
  case stores k =>
    obtain ⟨value, base, e⟩ := hs
    obtain ⟨n, pc, ht⟩ := storeOp_cpu e.symm
    rw [ht]
    exact ((WritersOnly.refl _).setNmi ⟨k, .inl rfl⟩ n).setPc pc
  case modifies k =>
    obtain ⟨base, e⟩ := hs
    obtain ⟨b, n, pc, ht⟩ := rmwOp_cpu e.symm
    rw [ht]
    exact ((modifyEffect_writers _ _ _ b).setNmi ⟨k, .inr rfl⟩ n).setPc pc
  case accumulator =>
    cases hs
    exact (WritersOnly.setAcc (.inr rfl) (modifyEffect_writers _ _ _ _)).setPc _
  case registers =>
    cases hs
    exact (effect _).setPc _
  case pushes | pulls =>
    obtain ⟨b, sp, pc, u, e, hu⟩ := hs
    cases e
    rw [hu]
    exact ((effect b).setSp (mem_writersSp (by simp [hsh])) sp).setPc pc
  case jumps | branches =>
    obtain ⟨pc, u, e, hu⟩ := hs
    cases e
    rw [hu]
    exact (WritersOnly.refl _).setPc pc

/-- Settles O35: instruction by instruction through its mnemonic, whose writes are checked against the lists. -/
theorem registerAndFlagWriters : Obligations.RegisterAndFlagWriters := by
  unfold Obligations.RegisterAndFlagWriters
  intro i s t h
  obtain ⟨a, x, y, sp, flagC, flagZ, flagN, flagI, flagD, flagV, cycles, nmi⟩ := exec_writers h
  exact ⟨a, x, y, sp, flagC, flagZ, flagN, flagI, flagD, flagV, cycles, nmi⟩

end Sys2Proof.Machine
end

section
/-! SUPPORT. The CPU bus: the rows of its memory map that repeat, the reads nothing answers, and the bus
latch after a write. -/

namespace Sys2Proof.Machine

/-! ### The PPU's registers -/

/-- A read in the PPU's window is a read of the register its low three bits name. -/
theorem busReadRow_ppu {s : State} {a : Word} (h : isPpu a) :
    busReadRow s a = ppuRegRead s (a.toNat % 8) := by
  obtain ⟨h1, h2⟩ := h
  rw [busReadRow, if_neg (by omega), if_pos h2]

/-- A write in the PPU's window is a write of the register its low three bits name. -/
theorem busStore_ppuRow {s : State} {a : Word} (v : Byte) (h : isPpu a) :
    busStore s a v = ppuRegWrite (s.setDataBus v) (a.toNat % 8) v := by
  obtain ⟨h1, h2⟩ := h
  rw [busStore, busWriteRow, if_neg (by omega), if_pos h2]

/-! ### Read after write -/

theorem busRead_busStore_ram {s : State} {a : Word} (v : Byte) (h : a.toNat < 0x2000) :
    (busRead (busStore s a v) a).1 = v := by
  simp [busRead_ramRow h, busStore_ramRow v h]

/-- A write of PRG RAM that takes it. -/
theorem busStore_prgRam {s : State} {a : Word} (v : Byte) (h1 : 0x6000 ≤ a.toNat) (h2 : a.toNat < 0x8000)
    (hw : prgRamWritable s = true) :
    busStore s a v =
      (s.setDataBus v).setBoard { s.board with prgRam := Cells.write s.board.prgRam (a.toNat - 0x6000) v } := by
  rw [busStore_mapperRow v (by omega), mapperCpuWrite, if_neg (by omega), if_pos h2]
  exact if_pos hw

/-- A read of PRG RAM that answers it. -/
theorem busRead_prgRam {s : State} {a : Word} (h1 : 0x6000 ≤ a.toNat) (h2 : a.toNat < 0x8000)
    (hr : prgRamReadable s = true) : (busRead s a).1 = Cells.read s.board.prgRam (a.toNat - 0x6000) := by
  rw [busRead_mapperRow (by omega), mapperCpuRead, if_neg (by omega), if_pos h2, if_pos hr]

/-- PRG RAM that takes writes answers reads. -/
theorem prgRamReadable_of_writable {s : State} (h : prgRamWritable s = true) : prgRamReadable s = true :=
  (Bool.and_eq_true_iff.1 h).1

theorem busRead_busStore_prgRam {s : State} {a : Word} (v : Byte) (h1 : 0x6000 ≤ a.toNat)
    (h2 : a.toNat < 0x8000) (hw : prgRamWritable s = true) : (busRead (busStore s a v) a).1 = v := by
  have hr : prgRamReadable (busStore s a v) = true := by
    rw [busStore_prgRam v h1 h2 hw]
    exact prgRamReadable_of_writable hw
  rw [busRead_prgRam h1 h2 hr, busStore_prgRam v h1 h2 hw]
  exact Cells.read_write_same _ _ v

/-! ### The bus latch after a write -/

theorem ppuWrite_dataBus (s : State) (a : VAddr) (b : Byte) : (ppuWrite s a b).dataBus = s.dataBus := by
  unfold ppuWrite
  split
  · unfold chrWrite
    split <;> rfl
  split
  · unfold ntWrite
    dsimp only
    split <;> rfl
  · rfl

theorem writePpuCtrl_dataBus (s : State) (b : Byte) : (writePpuCtrl s b).dataBus = s.dataBus := by
  unfold writePpuCtrl
  dsimp only
  split
  · rfl
  split <;> rfl

theorem ppuRegWrite_dataBus (s : State) (i : Nat) (b : Byte) : (ppuRegWrite s i b).dataBus = s.dataBus := by
  unfold ppuRegWrite
  split
  case h_1 => exact writePpuCtrl_dataBus s b
  case h_7 => exact ppuWrite_dataBus s _ b
  all_goals rfl

theorem mapperCpuWrite_dataBus (s : State) (a : Word) (b : Byte) :
    (mapperCpuWrite s a b).dataBus = s.dataBus := by
  unfold mapperCpuWrite
  split
  · rfl
  split
  · split <;> rfl
  · rfl

/-- Of the rows of the memory map, only the DMA trigger's write touches the bus latch. -/
theorem busWriteRow_dataBus (s : State) {a : Word} (v : Byte) (h : a.toNat ≠ 0x4014) :
    (busWriteRow s a v).dataBus = s.dataBus := by
  rw [busWriteRow, if_neg (c := a.toNat = 0x4014) h]
  split
  · rfl
  split
  · exact ppuRegWrite_dataBus s _ v
  iterate 5 (split; · rfl)
  exact mapperCpuWrite_dataBus s a v

/-! ### The mirrors -/

/-- Two addresses of one Byte of RAM, or of one register of the PPU, are the same to the bus. -/
def Mirrors (a b : Word) : Prop :=
  (a.toNat < 0x2000 ∧ b.toNat < 0x2000 ∧ a.toNat % 0x0800 = b.toNat % 0x0800) ∨
    (isPpu a ∧ isPpu b ∧ a.toNat % 8 = b.toNat % 8)

theorem Mirrors.busRead_eq {a b : Word} (h : Mirrors a b) (s : State) : busRead s a = busRead s b := by
  obtain ⟨ha, hb, e⟩ | ⟨ha, hb, e⟩ := h
  · rw [busRead_ramRow ha, busRead_ramRow hb, e]
  · rw [busRead, busRead, busReadRow_ppu ha, busReadRow_ppu hb, e]

theorem Mirrors.busStore_eq {a b : Word} (h : Mirrors a b) (s : State) (v : Byte) :
    busStore s a v = busStore s b v := by
  obtain ⟨ha, hb, e⟩ | ⟨ha, hb, e⟩ := h
  · rw [busStore_ramRow v ha, busStore_ramRow v hb, e]
  · rw [busStore_ppuRow v ha, busStore_ppuRow v hb, e]

/-- Settles O40: both kinds of mirror by their row of the memory map, the latch row by row. -/
theorem busMirrorsAndLatch : Obligations.BusMirrorsAndLatch := by
  unfold Obligations.BusMirrorsAndLatch
  intro s a b v
  exact ⟨fun h => ⟨Mirrors.busRead_eq h s, Mirrors.busStore_eq h s v⟩, busRead_busStore_ram v,
    busRead_busStore_prgRam v, busRead_dataBus s a, busWriteRow_dataBus (s.setDataBus v) v⟩

/-! ### Reads nothing answers -/

/-- A row that gives the bus latch and changes nothing makes a read that does. -/
theorem busRead_of_openRow {s : State} {a : Word} (h : busReadRow s a = (s.dataBus, s)) :
    busRead s a = (s.dataBus, s) := by
  rw [busRead, h]
  rfl

/-- The write-only registers of the PPU (20_memory.md R93). -/
theorem ppuRegRead_writeOnly (s : State) {k : Nat} (h2 : k ≠ 2) (h4 : k ≠ 4) (h7 : k ≠ 7) :
    ppuRegRead s k = (s.dataBus, s) := by
  unfold ppuRegRead
  split <;> first | contradiction | rfl

/-- The APU's and the controllers' addresses other than the three that answer (63_apu.md R552). -/
theorem busReadRow_io (s : State) {a : Word} (h1 : 0x4000 ≤ a.toNat) (h2 : a.toNat < 0x4020)
    (h : a.toNat < 0x4015 ∨ 0x4017 < a.toNat) : busReadRow s a = (s.dataBus, s) := by
  rw [busReadRow, if_neg (by omega), if_neg (by omega), if_neg (by omega), if_neg (by omega),
    if_neg (by omega), if_pos h2]

/-- Without PRG RAM, or with MMC3's disabled, nothing answers (64_mappers.md R602, R659). -/
theorem prgRamReadable_eq_false {s : State}
    (h : s.cart.prgRamSize = 0 ∨ ∃ m, s.mapper = .mmc3 m ∧ m.prgRamProtect.getLsbD 7 = false) :
    prgRamReadable s = false := by
  obtain h | ⟨m, hm, hb⟩ := h
  · simp [prgRamReadable, hasPrgRam, h]
  · rw [prgRamReadable, hm]
    show (hasPrgRam s && m.prgRamProtect.getLsbD 7) = false
    rw [hb, Bool.and_false]

/-- Mapper space below PRG ROM where no PRG RAM answers (64_mappers.md R606). -/
theorem mapperCpuRead_open {s : State} {a : Word}
    (h : a.toNat < 0x6000 ∨ a.toNat < 0x8000 ∧ prgRamReadable s = false) : mapperCpuRead s a = s.dataBus := by
  unfold mapperCpuRead
  obtain h | ⟨h, hr⟩ := h
  · exact if_pos h
  · simp [h, hr]

theorem busRead_mapperOpen {s : State} {a : Word} (h1 : 0x4020 ≤ a.toNat)
    (h : a.toNat < 0x6000 ∨ a.toNat < 0x8000 ∧ prgRamReadable s = false) : busRead s a = (s.dataBus, s) := by
  rw [busRead_mapperRow h1, mapperCpuRead_open h]
  rfl

/-- Settles O41: the four kinds of address, each by its row of the memory map. -/
theorem openBus : Obligations.OpenBus := by
  unfold Obligations.OpenBus
  rintro s a (⟨k, hk, h1, h2, rfl⟩ | ⟨h1, h2⟩ | ⟨h1, h2⟩ | ⟨h1, h2, h⟩)
  · refine busRead_of_openRow ((busReadRow_ppu ⟨h1, h2⟩).trans (ppuRegRead_writeOnly s ?_ ?_ ?_)) <;>
      exact fun e => absurd (e ▸ hk) (by decide)
  · exact busRead_of_openRow (busReadRow_io s h1 (by omega) (by omega))
  · by_cases hm : 0x4020 ≤ a.toNat
    · exact busRead_mapperOpen hm (.inl h2)
    · exact busRead_of_openRow (busReadRow_io s (by omega) (by omega) (by omega))
  · exact busRead_mapperOpen (by omega) (.inr ⟨h2, prgRamReadable_eq_false h⟩)

end Sys2Proof.Machine
end

section
/-! SUPPORT. The decoder and the encoder, both through the row of the opcode table. -/

namespace Sys2Proof

/-- The operand bytes from which a format makes an instruction, low byte first (30_encoding.md R130). -/
inductive OpForm.Makes : OpForm → Instr → List Byte → Prop
  | f1 (i : Instr) : Makes (.f1 i) i []
  | f2 (build : Byte → Instr) (b : Byte) : Makes (.f2 build) (build b) [b]
  | f3 (build : Word → Instr) (w : Word) : Makes (.f3 build) (build w) [loByte w, hiByte w]

/-! ### Decoding -/

/-- What the decoder gives for an opcode of the table followed by its operand bytes. -/
theorem decode_of_makes {op : Byte} {form : OpForm} {i : Instr} {ops : List Byte} (h : formOf op = some form)
    (hm : form.Makes i ops) (rest : List Byte) : decode (op :: ops ++ rest) = some (i, rest) := by
  cases hm <;> simp [decode, h]

/-- Whatever decodes is an opcode of the table followed by its operand bytes. -/
theorem makes_of_decode {bytes rest : List Byte} {i : Instr} (h : decode bytes = some (i, rest)) :
    ∃ op form ops, formOf op = some form ∧ form.Makes i ops ∧ bytes = op :: ops ++ rest := by
  unfold decode at h
  split at h
  · cases h
  next op tail =>
    split at h
    next i hf => cases h; exact ⟨op, _, _, hf, .f1 i, rfl⟩
    next build b _ hf => cases h; exact ⟨op, _, _, hf, .f2 build b, rfl⟩
    next build lo hi _ hf =>
      cases h
      exact ⟨op, _, _, hf, .f3 build (wordOf hi lo), by simp⟩
    · cases h

/-- With two bytes to follow, only the opcode decides whether there is an instruction. -/
theorem decode_three_eq_none_iff (op b1 b2 : Byte) : decode [op, b1, b2] = none ↔ formOf op = none := by
  cases hf : formOf op with
  | none => simp [decode, hf]
  | some form => cases form <;> simp [decode, hf]

/-! ### Encoding -/

/-- The encoder writes the opcode and the operand bytes of the row that makes the instruction. -/
theorem encode_of_makes {op : Byte} {form : OpForm} {i : Instr} {ops : List Byte} (h : formOf op = some form)
    (hm : form.Makes i ops) : encode i = op :: ops := by
  obtain ⟨r, hr, rfl, rfl⟩ := formOf_row h
  have he := row_encodes r hr
  unfold RowEncodes at he
  generalize r.form = form at he hm
  cases hm with
  | f1 => exact he
  | f2 _ b => exact he b
  | f3 _ w => exact he w

/-- Every instruction is made by a row of the table: the instructions of format F1, of F3, and the rest, of F2
(30_encoding.md R130). -/
theorem exists_makes (i : Instr) :
    ∃ op form ops, encode i = op :: ops ∧ formOf op = some form ∧ form.Makes i ops := by
  cases i
  case tax | tay | txa | tya | tsx | txs | pha | php | pla | plp | inx | iny | dex | dey | aslAcc | lsrAcc |
      rolAcc | rorAcc | rts | clc | sec | cli | sei | cld | sed | clv | brk | rti | nop =>
    exact ⟨_, _, _, rfl, rfl, .f1 _⟩
  case ldaAbs | ldaAbx | ldaAby | ldxAbs | ldxAby | ldyAbs | ldyAbx | staAbs | staAbx | staAby | stxAbs |
      styAbs | andAbs | andAbx | andAby | oraAbs | oraAbx | oraAby | eorAbs | eorAbx | eorAby | bitAbs |
      adcAbs | adcAbx | adcAby | sbcAbs | sbcAbx | sbcAby | cmpAbs | cmpAbx | cmpAby | cpxAbs | cpyAbs |
      incAbs | incAbx | decAbs | decAbx | aslAbs | aslAbx | lsrAbs | lsrAbx | rolAbs | rolAbx | rorAbs |
      rorAbx | jmpAbs | jmpInd | jsr =>
    exact ⟨_, _, _, rfl, rfl, .f3 _ _⟩
  all_goals exact ⟨_, _, _, rfl, rfl, .f2 _ _⟩

/-- Settles O1: every instruction is made by a row of the table, and the decoder reads that row. -/
theorem encodeThenDecode : Obligations.EncodeThenDecode := by
  unfold Obligations.EncodeThenDecode
  intro i rest _
  obtain ⟨op, form, ops, he, hf, hm⟩ := exists_makes i
  rw [he]
  exact decode_of_makes hf hm rest

/-- Settles O2: the row the decoder reads is the row the encoder writes. -/
theorem decodeThenEncode : Obligations.DecodeThenEncode := by
  unfold Obligations.DecodeThenEncode
  intro bytes rest i h
  obtain ⟨op, form, ops, hf, hm, rfl⟩ := makes_of_decode h
  rw [encode_of_makes hf hm]

/-- Settles O3: ten words of the table, evaluated. -/
theorem sampleEncodings : Obligations.SampleEncodings := by
  unfold Obligations.SampleEncodings
  decide

/-! ### The undefined opcodes (30_encoding.md R144) -/

theorem formOf_eq_none_iff (op : Byte) : formOf op = none ↔ op ∉ opcodeTable.map (·.opcode) := by
  simp [formOf, List.find?_eq_none]

/-- Settles O4: the opcode alone decides, and the list is the complement of the table's opcodes. -/
theorem undefinedOpcodes : Obligations.UndefinedOpcodes := by
  unfold Obligations.UndefinedOpcodes
  intro op b1 b2
  rw [decode_three_eq_none_iff, formOf_eq_none_iff]
  revert op
  decide +kernel

end Sys2Proof
end

section
/-! SUPPORT. The addressing modes in integers (30_encoding.md R134 to R136, R139). -/

namespace Sys2Proof.Machine

theorem zeroPage_eq (z : Byte) : zeroPage z = BitVec.ofNat 16 z.toNat := (BitVec.ofNat_toNat 16 z).symm

/-- An indexed address in page zero wraps inside it. -/
theorem zeroPage_add (z i : Byte) : zeroPage (z + i) = BitVec.ofNat 16 ((z.toNat + i.toNat) % 256) := by
  rw [zeroPage_eq, BitVec.toNat_add]

/-- The high byte of a pointer in page zero comes from page zero too. -/
theorem read16Zp_eq (s : State) (z : Byte) :
    read16Zp s z =
      let lo := busRead s (BitVec.ofNat 16 z.toNat)
      let hi := busRead lo.2 (BitVec.ofNat 16 ((z.toNat + 1) % 256))
      (wordOf hi.1 lo.1, hi.2) := by
  rw [read16Zp, zeroPage_eq, zeroPage_add]
  rfl

/-- Two addresses lie in different pages when their quotients by 256 differ. -/
theorem hiByte_bne (v w : Word) : (hiByte v != hiByte w) = decide (v.toNat / 256 ≠ w.toNat / 256) := by
  rw [Bool.eq_iff_iff, bne_iff_ne, decide_eq_true_iff, ← BitVec.toNat_ne_iff_ne, hiByte_toNat, hiByte_toNat]

/-- An index is added modulo 65536; it crosses a page when the sum lies in another than the base. -/
theorem indexed_eq (base : Word) (i : Byte) (s : State) :
    indexed base i s = ⟨BitVec.ofNat 16 (base.toNat + i.toNat),
      decide (base.toNat / 256 ≠ (base.toNat + i.toNat) % 65536 / 256), s⟩ := by
  have ea : base + i.setWidth 16 = BitVec.ofNat 16 (base.toNat + i.toNat) := by bv_omega
  rw [indexed, ea, hiByte_bne, BitVec.toNat_ofNat]

/-- Settles O13: mode by mode, the model's sums of bytes and words in integers. -/
theorem addressingModes : Obligations.AddressingModes := by
  unfold Obligations.AddressingModes
  intro s z a
  refine ⟨?zp, ?zpx, ?zpy, rfl, indexed_eq a s.cpu.x s, indexed_eq a s.cpu.y s, ?izx, ?izy, rfl, fun _ => rfl⟩
  case zp => rw [MemMode.locate, zeroPage_eq]
  case zpx | zpy => rw [MemMode.locate, zeroPage_add]
  case izx =>
    rw [MemMode.locate, read16Zp_eq, BitVec.toNat_add, Nat.mod_add_mod]
    rfl
  case izy =>
    simp only [MemMode.locate, read16Zp_eq, indexed_eq, wordOf_toNat]

end Sys2Proof.Machine
end

section
/-! SUPPORT. Loads and stores (40_load_store.md R170 to R175): a list of rows, each an instruction with its
operand, length and base cycles, is settled by naming the shared operation its instructions run. -/

namespace Sys2Proof.Machine

/-! ### One instruction -/

/-- An instruction that runs `readOp` with a register effect that leaves `PC`, whole. -/
theorem exec_of_readOp {f : Cpu → Byte → Cpu} {i : Instr} {o : Operand} {cyc : Nat} {s : State}
    (hf : ∀ c b, (f c b).pc = c.pc) (h : exec i s = .next (readOp f o cyc s)) :
    exec i s = .next (ended (o.fetch s).after
      { f s.cpu (o.fetch s).value with pc := past s.cpu o.length } (cyc + bitNat (o.fetch s).crossed)) := by
  rw [h, readOp_eq, hf]
  rfl

/-- An instruction that runs `storeOp`, when its write is made and when it is refused. -/
theorem exec_of_storeOp {value : Cpu → Byte} {i : Instr} {m : MemMode} {cyc : Nat} {s : State}
    (h : exec i s = storeOp value m cyc s) :
    let l := m.locate s
    let t := busStore l.after l.ea (value s.cpu)
    (writeRefused s l.ea = false → exec i s = .next (ended t { t.cpu with pc := past s.cpu m.length } cyc)) ∧
    (writeRefused s l.ea = true → exec i s = .fault (.badAccess l.ea .write l.after)) := by
  rw [h, storeOp_eq]
  exact ⟨fun hr => if_neg (by simp [hr]), fun hr => if_pos hr⟩

/-! ### Lists of rows -/

/-- Reading instructions with one register effect. -/
theorem readRows {f : Cpu → Byte → Cpu} {s : State} {rows : List (Instr × Operand × Nat × Nat)}
    (hf : ∀ c b, (f c b).pc = c.pc)
    (h : rows.Forall fun (i, o, len, cyc) => exec i s = .next (readOp f o cyc s) ∧ o.length = len) :
    ∀ i o len cyc, (i, o, len, cyc) ∈ rows →
      exec i s = .next (ended (o.fetch s).after
        { f s.cpu (o.fetch s).value with pc := past s.cpu len } (cyc + bitNat (o.fetch s).crossed)) := by
  intro i o len cyc hm
  obtain ⟨hx, rfl⟩ := List.forall_iff_forall_mem.mp h _ hm
  exact exec_of_readOp hf hx

/-- Stores, each of its own register. -/
theorem storeRows {s : State} {rows : List (Instr × MemMode × Byte × Nat × Nat)}
    (h : rows.Forall fun (i, m, r, len, cyc) =>
      ∃ value : Cpu → Byte, exec i s = storeOp value m cyc s ∧ value s.cpu = r ∧ m.length = len) :
    ∀ i m r len cyc, (i, m, r, len, cyc) ∈ rows →
      let l := m.locate s
      let t := busStore l.after l.ea r
      (writeRefused s l.ea = false → exec i s = .next (ended t { t.cpu with pc := past s.cpu len } cyc)) ∧
      (writeRefused s l.ea = true → exec i s = .fault (.badAccess l.ea .write l.after)) := by
  intro i m r len cyc hm
  obtain ⟨value, hx, rfl, rfl⟩ := List.forall_iff_forall_mem.mp h _ hm
  exact exec_of_storeOp hx

/-! ### The results -/

/-- Settles O14: row by row, LDA, LDX and LDY are reads whose effect is the load of their register. -/
theorem loadResults : Obligations.LoadResults := by
  unfold Obligations.LoadResults
  intro s v z a
  refine ⟨readRows (f := Cpu.loadA) (fun _ _ => rfl) ?lda, readRows (f := Cpu.loadX) (fun _ _ => rfl) ?ldx,
    readRows (f := Cpu.loadY) (fun _ _ => rfl) ?ldy⟩
  case lda =>
    exact ⟨⟨rfl, rfl⟩, ⟨rfl, rfl⟩, ⟨rfl, rfl⟩, ⟨rfl, rfl⟩, ⟨rfl, rfl⟩, ⟨rfl, rfl⟩, ⟨rfl, rfl⟩, ⟨rfl, rfl⟩⟩
  case ldx | ldy => exact ⟨⟨rfl, rfl⟩, ⟨rfl, rfl⟩, ⟨rfl, rfl⟩, ⟨rfl, rfl⟩, ⟨rfl, rfl⟩⟩

/-- Settles O15: row by row, STA, STX and STY are stores of their register. -/
theorem storeResults : Obligations.StoreResults := by
  unfold Obligations.StoreResults
  intro s z a
  refine storeRows ⟨?_, ?_, ?_, ?_, ?_, ?_, ?_, ?_, ?_, ?_, ?_, ?_, ?_⟩
  all_goals exact ⟨_, rfl, rfl, rfl⟩

end Sys2Proof.Machine
end

section
/-! SUPPORT. What an instruction that answers leaves unchanged, by its shape (40_load_store.md R176). -/

namespace Sys2Proof.Machine

/-! ### One inversion per shape -/

/-- What an instruction that answers did, by its shape. -/
theorem shapeSays_of_exec {i : Instr} {sh : Shape} {s t : State} (hs : shapeOf i = sh) (h : exec i s = .next t) :
    ShapeSays sh s (.next t) := hs ▸ h ▸ exec_shape i s

/-- A reading instruction leaves its reads, the CPU registers and `cyc`. -/
theorem exec_reads {i : Instr} {o : Operand} {s t : State} (hs : shapeOf i = .reads o) (h : exec i s = .next t) :
    t = ended (o.fetch s).after t.cpu t.cyc := by
  obtain ⟨f, base, e, -⟩ := shapeSays_of_exec hs h
  cases e
  rw [readOp_eq]
  rfl

/-- The register-only forms and the branches leave the CPU registers and `cyc`. -/
theorem exec_registersOnly {i : Instr} {s t : State}
    (hs : shapeOf i ∈ [Shape.accumulator, .registers, .branches]) (h : exec i s = .next t) :
    t = ended s t.cpu t.cyc := by
  simp only [List.mem_cons, List.not_mem_nil, or_false] at hs
  obtain hs | hs | hs := hs
  · obtain ⟨f, e⟩ := shapeSays_of_exec hs h
    cases e
    rfl
  · obtain ⟨f, e, -⟩ := shapeSays_of_exec hs h
    cases e
    rfl
  · obtain ⟨cond, d, e⟩ := shapeSays_of_exec hs h
    cases e
    exact branch_eq cond d s

/-- The pulls leave the bus latch besides. -/
theorem exec_pulls {i : Instr} {s t : State} (hs : shapeOf i = .pulls) (h : exec i s = .next t) :
    t = { ended s t.cpu t.cyc with dataBus := t.dataBus } := by
  obtain ⟨bus, a, sp, p, pc, cyc, e⟩ := shapeSays_of_exec hs h
  cases e
  rfl

/-- The jumps leave the reads of their pointer. -/
theorem exec_jumps {i : Instr} {s t : State} (hs : shapeOf i = .jumps) (h : exec i s = .next t) :
    ∃ u, ReadEffect s u ∧ t = ended u t.cpu t.cyc := by
  obtain ⟨target, cyc, u, e, hu⟩ := shapeSays_of_exec hs h
  cases e
  exact ⟨u, hu, rfl⟩

/-- An instruction that neither stores nor modifies leaves the NMI latch. -/
theorem exec_nmiPending {i : Instr} {s t : State} (hs : ∀ m, shapeOf i ≠ .stores m ∧ shapeOf i ≠ .modifies m)
    (h : exec i s = .next t) : t.cpu.nmiPending = s.cpu.nmiPending := by
  by_contra hn
  obtain ⟨m, hm⟩ := (exec_writers h).nmi hn
  exact hm.elim (hs m).1 (hs m).2

/-! ### The instructions that store nothing -/

/-- Reads, then the CPU registers and `cyc`. -/
theorem ReadEffect.nothingStored {s u t : State} (h : ReadEffect s u) (ht : t = ended u t.cpu t.cyc) :
    NothingStored s t := by
  rw [ht]
  exact { h with }

theorem exec_nothingStored {i : Instr} {s t : State}
    (hs : (∃ o, shapeOf i = .reads o) ∨ shapeOf i ∈ [Shape.accumulator, .registers, .pulls, .jumps, .branches])
    (h : exec i s = .next t) : NothingStored s t := by
  have shapes : (∃ o, shapeOf i = .reads o) ∨ shapeOf i ∈ [Shape.accumulator, .registers, .branches] ∨
      shapeOf i = .pulls ∨ shapeOf i = .jumps := by
    simp only [List.mem_cons, List.not_mem_nil, or_false] at hs ⊢
    tauto
  obtain ⟨o, hr⟩ | hr | hr | hr := shapes
  · exact (fetch_effect o s).nothingStored (exec_reads hr h)
  · exact (ReadEffect.refl s).nothingStored (exec_registersOnly hr h)
  · have bus : ReadEffect s { s with dataBus := t.dataBus } := { ReadEffect.refl s with }
    exact bus.nothingStored (exec_pulls hr h)
  · obtain ⟨u, hu, ht⟩ := exec_jumps hr h
    exact hu.nothingStored ht

/-- Settles O31: shape by shape, what an instruction leaves is its reads and the CPU registers. -/
theorem nothingStoredFrame : Obligations.NothingStoredFrame := by
  unfold Obligations.NothingStoredFrame
  intro i s t h
  refine ⟨fun hs => ⟨exec_nothingStored hs h, (exec_writers h).cycles, exec_nmiPending ?_ h⟩,
    fun v hs => exec_reads hs h, fun m hs => ⟨locate_after m s, busRead_frame _ _, exec_reads hs h⟩,
    fun hs => exec_registersOnly hs h, fun hs => exec_pulls hs h⟩
  intro m
  constructor <;> intro e <;> simp [e] at hs

/-! ### The instructions that store -/

/-- Settles O32: the pointer reads lie in page zero, and the rest is one write of the bus. -/
theorem storeFrameHolds : Obligations.StoreFrameHolds := by
  unfold Obligations.StoreFrameHolds
  intro i m s t hs h
  obtain ⟨value, base, e⟩ := shapeSays_of_exec hs h
  refine ⟨locate_after m s, _, busStore_frame _ _ (value s.cpu), ?_⟩
  rw [storeOp_next e.symm]
  rfl

/-- Settles O33: the pointer reads, one read and one write of the bus, and flags of which I, D and V stay. -/
theorem modifyFrameHolds : Obligations.ModifyFrameHolds := by
  unfold Obligations.ModifyFrameHolds
  intro i m s t hs h
  obtain ⟨f, base, e, hf⟩ := shapeSays_of_exec hs h
  have ht := rmwOp_next e.symm
  dsimp only at ht
  generalize hb : (busRead (m.locate s).after (m.locate s).ea).1 = b at ht
  obtain ⟨hi, hd, hv⟩ := hf b s.cpu.p
  refine ⟨locate_after m s, busRead_frame _ _, _, busStore_frame _ _ (f b s.cpu.p).value, ?_⟩
  rw [ht, ← hi, ← hd, ← hv]
  rfl

end Sys2Proof.Machine
end

section
/-! SUPPORT. Instructions that change the CPU registers alone (41_transfer.md R180 to R185): the whole state
such an instruction leaves, read off its mnemonic's effect on the registers. -/

namespace Sys2Proof.Machine

/-- A change of the CPU registers that leaves `PC`, whole. -/
theorem registerOp_eq {f : Cpu → Cpu} {s : State} (hf : (f s.cpu).pc = s.cpu.pc) (cyc : Nat) :
    registerOp cyc f s = ended s { f s.cpu with pc := past s.cpu 1 } cyc := by
  rw [past, ← hf]
  rfl

theorem registerEffect_pc (m : Mnemonic) (c : Cpu) (b : Byte) : (registerEffect m c b).pc = c.pc := by
  cases m <;> rfl

/-- A register-only instruction does what its mnemonic says, moves `PC` by 1 and takes 2 cycles. -/
theorem exec_registers {i : Instr} (hs : shapeOf i = .registers) (s : State) :
    exec i s =
      .next (ended s { registerEffect (mnemonicOf i) s.cpu 0#8 with pc := past s.cpu 1 } 2) := by
  have effect : exec i s = .next (registerOp 2 (fun c => registerEffect (mnemonicOf i) c 0#8) s) := by
    simpa only [hs, MnemonicSays] using exec_mnemonic i s
  rw [effect, registerOp_eq (registerEffect_pc _ _ _)]

/-- Settles O16: the transfers are register-only, and a load's `setZN` is the claim's `znOf`. -/
theorem transferResults : Obligations.TransferResults := by
  unfold Obligations.TransferResults
  intro s
  simp only [← setZN_eq]
  exact ⟨exec_registers (i := .tax) rfl s, exec_registers (i := .tay) rfl s, exec_registers (i := .txa) rfl s,
    exec_registers (i := .tya) rfl s, exec_registers (i := .tsx) rfl s, exec_registers (i := .txs) rfl s⟩

end Sys2Proof.Machine
end

section
/-! SUPPORT. The stack instructions (42_stack.md R190 to R194), and the bytes a pushing instruction stores. -/

namespace Sys2Proof.Machine

/-! ### One push, one pull -/

/-- The state an instruction that pushes `v` leaves (42_stack.md R190, R191). -/
def afterPush (s : State) (v : Byte) : State :=
  { s with ram := Cells.write s.ram (0x0100 + s.cpu.sp.toNat) v, dataBus := v,
           cpu := { s.cpu with sp := s.cpu.sp - 1#8, pc := past s.cpu 1 }, cyc := 3 }

/-- The byte the next pull from `s` gives (00_scope.md R14). -/
def stackTop (s : State) : Byte := Cells.read s.ram (0x0100 + (s.cpu.sp + 1#8).toNat)

/-- The state an instruction leaves that pulls the top of the stack and writes it to the CPU registers by `f`
(42_stack.md R192, R193). -/
def afterPull (f : Cpu → Byte → Cpu) (s : State) : State :=
  { s with dataBus := stackTop s, cyc := 4,
           cpu := { f s.cpu (stackTop s) with sp := s.cpu.sp + 1#8, pc := past s.cpu 1 } }

theorem exec_pha (s : State) : exec .pha s = .next (afterPush s s.cpu.a) := by
  rw [exec, execPha, push_eq]
  rfl

theorem exec_php (s : State) :
    exec .php s = .next (afterPush s (BitVec.ofNat 8 (statusOf s.cpu.p + 16))) := by
  rw [exec, execPhp, push_eq, pushed_true]
  rfl

theorem exec_pla (s : State) : exec .pla s = .next (afterPull Cpu.loadA s) := by
  rw [exec, execPla, pull_eq]
  rfl

theorem exec_plp (s : State) : exec .plp s = .next (afterPull (fun c b => c.setP (flagsOf b)) s) := by
  rw [exec, execPlp, pull_eq]
  rfl

/-- Settles O17: two instructions push one byte, two pull one, and a load's `setZN` is the claim's `znOf`. -/
theorem stackResults : Obligations.StackResults := by
  unfold Obligations.StackResults
  exact fun s => ⟨exec_pha s, exec_php s, exec_pla s, exec_plp s⟩

/-! ### Round trips -/

/-- `t` has `v` on top of the stack of `s`: a pull gives `v` and the `SP` of `s` back. -/
structure HasPushed (v : Byte) (s t : State) : Prop where
  top : stackTop t = v
  sp : t.cpu.sp + 1#8 = s.cpu.sp

theorem afterPush_hasPushed (s : State) (v : Byte) : HasPushed v s (afterPush s v) := by
  have sp : s.cpu.sp - 1#8 + 1#8 = s.cpu.sp := BitVec.sub_add_cancel _ _
  refine ⟨?_, sp⟩
  simp only [stackTop, afterPush, sp, Cells.read_write_same]

theorem pha_hasPushed {s t : State} (h : exec .pha s = .next t) : HasPushed s.cpu.a s t := by
  cases (exec_pha s).symm.trans h
  exact afterPush_hasPushed s _

theorem php_hasPushed {s t : State} (h : exec .php s = .next t) :
    HasPushed (BitVec.ofNat 8 (statusOf s.cpu.p + 16)) s t := by
  cases (exec_php s).symm.trans h
  exact afterPush_hasPushed s _

/-- PLA after a push gives A the byte pushed. -/
theorem HasPushed.pla {v : Byte} {s t u : State} (hp : HasPushed v s t) (h : exec .pla t = .next u) :
    u.cpu.a = v ∧ u.cpu.sp = s.cpu.sp := by
  cases (exec_pla t).symm.trans h
  exact ⟨hp.top, hp.sp⟩

/-- PLP after a push gives the flags of the byte pushed. -/
theorem HasPushed.plp {v : Byte} {s t u : State} (hp : HasPushed v s t) (h : exec .plp t = .next u) :
    u.cpu.p = flagsOf v ∧ u.cpu.sp = s.cpu.sp := by
  cases (exec_plp t).symm.trans h
  exact ⟨congrArg flagsOf hp.top, hp.sp⟩

/-- A pulled P reads back with bit 5 set and bit 4 clear (10_state.md R26). -/
theorem statusOf_flagsOf (b : Byte) :
    BitVec.ofNat 8 (statusOf (flagsOf b)) = (b &&& 0xCF#8) ||| 0x20#8 := by
  revert b; decide

/-- Settles O18: each trip is one push, then one pull of the byte pushed, between register transfers. -/
theorem stackRoundTrips : Obligations.StackRoundTrips := by
  unfold Obligations.StackRoundTrips
  refine fun s => ⟨?a, ?x, ?y, ?flags, ?status, ?load⟩
  case a => exact fun t u push pull => (pha_hasPushed push).pla pull
  case x =>
    intro t1 t2 t3 t4 txa push pull tax
    cases (exec_registers (i := .txa) rfl s).symm.trans txa
    cases (exec_registers (i := .tax) rfl t3).symm.trans tax
    exact (pha_hasPushed push).pla pull
  case y =>
    intro t1 t2 t3 t4 tya push pull tay
    cases (exec_registers (i := .tya) rfl s).symm.trans tya
    cases (exec_registers (i := .tay) rfl t3).symm.trans tay
    exact (pha_hasPushed push).pla pull
  case flags =>
    intro t u push pull
    have pulled := (php_hasPushed push).plp pull
    rwa [← pushed_true, flagsOf_pushed] at pulled
  case status => exact fun t u push pull => (php_hasPushed push).pla pull
  case load =>
    intro v t1 t2 t3 lda push pull
    have hx := exec_of_readOp (f := Cpu.loadA) (i := .ldaImm v) (o := .imm v) (cyc := 2) (s := s)
      (fun _ _ => rfl) rfl
    cases hx.symm.trans lda
    obtain ⟨flags, sp⟩ := (pha_hasPushed push).plp pull
    exact ⟨by rw [flags]; exact statusOf_flagsOf v, sp⟩

/-! ### The frame of the pushes -/

/-- RAM with `bytes` pushed from `sp` down, the first one first. -/
def pushBytes (ram : Memory) (sp : Byte) : List Byte → Memory
  | [] => ram
  | v :: bytes => pushBytes (Cells.write ram (0x0100 + sp.toNat) v) (sp - 1#8) bytes

/-- Pushing leaves every byte of RAM but as many from `sp` down as are pushed. -/
theorem read_pushBytes_other (bytes : List Byte) (ram : Memory) (sp : Byte) {k : Nat}
    (h : ∀ j < bytes.length, k ≠ 0x0100 + (sp - BitVec.ofNat 8 j).toNat) :
    Cells.read (pushBytes ram sp bytes) k = Cells.read ram k := by
  induction bytes generalizing ram sp with
  | nil => rfl
  | cons v bytes ih =>
    have first : k ≠ 0x0100 + sp.toNat := by simpa using h 0 (by simp)
    have rest : ∀ j < bytes.length, k ≠ 0x0100 + (sp - 1#8 - BitVec.ofNat 8 j).toNat := by
      intro j hj
      have hsp : sp - BitVec.ofNat 8 (j + 1) = sp - 1#8 - BitVec.ofNat 8 j := by
        rw [BitVec.ofNat_add]; bv_omega
      rw [← hsp]
      exact h (j + 1) (by simpa using hj)
    rw [pushBytes, ih _ _ rest, Cells.read_write_other _ _ first]

theorem pushedFrame_eq (ram : Memory) (sp : Byte) (ret : Word) (status : Byte) :
    pushedFrame ram sp ret status = pushBytes ram sp [hiByte ret, loByte ret, status] := by
  simp only [pushBytes, sub_two]
  rfl

/-- What an instruction that pushes `n` bytes leaves: the CPU registers, `cyc`, the bus latch, and RAM with
those bytes. -/
theorem exec_pushes {i : Instr} {a : Word} {n : Nat} {s t : State}
    (hi : (i, n) ∈ [(Instr.pha, 1), (.php, 1), (.jsr a, 2), (.brk, 3)]) (h : exec i s = .next t) :
    t = { ended s t.cpu t.cyc with ram := t.ram, dataBus := t.dataBus } ∧
    t.cpu.sp = s.cpu.sp - BitVec.ofNat 8 n ∧
    ∃ bytes, bytes.length = n ∧ t.ram = pushBytes s.ram s.cpu.sp bytes := by
  simp only [List.mem_cons, List.not_mem_nil, or_false, Prod.mk.injEq] at hi
  obtain ⟨rfl, rfl⟩ | ⟨rfl, rfl⟩ | ⟨rfl, rfl⟩ | ⟨rfl, rfl⟩ := hi
  · cases (exec_pha s).symm.trans h
    exact ⟨rfl, rfl, [_], rfl, rfl⟩
  · cases (exec_php s).symm.trans h
    exact ⟨rfl, rfl, [_], rfl, rfl⟩
  · rw [exec, execJsr, push16, push_eq, push_eq, sub_two] at h
    cases h
    exact ⟨rfl, rfl, [_, _], rfl, rfl⟩
  · rw [exec, execBrk, takeInterrupt_eq _ _ _ _ (by decide) (by decide), pushedFrame_eq] at h
    cases h
    exact ⟨rfl, rfl, [_, _, _], rfl, rfl⟩

/-- Settles O34: the four instructions store what they push, from `SP` down, and nothing else in memory. -/
theorem pushFrameHolds : Obligations.PushFrameHolds := by
  unfold Obligations.PushFrameHolds
  intro i s t a n hi h
  obtain ⟨rest, sp, bytes, rfl, ram⟩ := exec_pushes hi h
  exact ⟨rest, sp, fun k hk => by rw [ram, read_pushBytes_other bytes s.ram s.cpu.sp hk]⟩

end Sys2Proof.Machine
end

section
/-! SUPPORT. The logic instructions (43_logic.md R200 to R203), which read one operand. -/

namespace Sys2Proof.Machine

/-- Reading instructions that load A with `op` of A and the operand; each row gives `op` applied to A. -/
theorem accRows {op : Byte → Byte → Byte} {s : State} {rows : List (Instr × Operand × (Byte → Byte) × Nat × Nat)}
    (h : rows.Forall fun (i, o, f, len, cyc) =>
      exec i s = .next (readOp (fun c b => c.loadA (op c.a b)) o cyc s) ∧ op s.cpu.a = f ∧ o.length = len)
    {i : Instr} {o : Operand} {f : Byte → Byte} {len cyc : Nat} (hm : (i, o, f, len, cyc) ∈ rows) :
    let m := o.fetch s
    exec i s = .next (ended m.after
      { s.cpu with a := f m.value, p := znOf s.cpu.p (f m.value), pc := past s.cpu len } (cyc + bitNat m.crossed)) := by
  obtain ⟨hx, rfl, rfl⟩ := List.forall_iff_forall_mem.mp h _ hm
  exact exec_of_readOp (f := fun c b => c.loadA (op c.a b)) (fun _ _ => rfl) hx

/-- Settles O19: each of the three lists is the rows of one bitwise operation on A. -/
theorem logicResults : Obligations.LogicResults := by
  unfold Obligations.LogicResults
  intro s v z a i o f len cyc hm
  rw [List.mem_append, List.mem_append] at hm
  refine hm.elim (fun hm => hm.elim (accRows (op := (· &&& ·)) ?and) (accRows (op := (· ||| ·)) ?ora))
    (accRows (op := (· ^^^ ·)) ?eor)
  case and | ora | eor =>
    exact ⟨⟨rfl, rfl, rfl⟩, ⟨rfl, rfl, rfl⟩, ⟨rfl, rfl, rfl⟩, ⟨rfl, rfl, rfl⟩, ⟨rfl, rfl, rfl⟩, ⟨rfl, rfl, rfl⟩,
      ⟨rfl, rfl, rfl⟩, ⟨rfl, rfl, rfl⟩⟩

/-! ### BIT -/

theorem bitTest_eq (a m : Byte) (p : Flags) :
    bitTest a m p = { p with z := decide (a &&& m = 0#8), n := m.getLsbD 7, v := m.getLsbD 6 } := rfl

/-- A reading instruction whose mode crosses no page takes its base cycles. -/
theorem exec_of_readOp_uncrossed {f : Cpu → Byte → Cpu} {i : Instr} {o : Operand} {cyc : Nat} {s : State}
    (hf : ∀ c b, (f c b).pc = c.pc) (h : exec i s = .next (readOp f o cyc s)) (hc : (o.fetch s).crossed = false) :
    exec i s = .next (ended (o.fetch s).after
      { f s.cpu (o.fetch s).value with pc := past s.cpu o.length } cyc) := by
  have hx := exec_of_readOp hf h
  rwa [hc] at hx

/-- Settles O20: both modes of BIT cross no page, and the read changes the flags alone, by `bitTest`. -/
theorem bitTestResults : Obligations.BitTestResults := by
  unfold Obligations.BitTestResults
  intro s z a i o len cyc hm
  have bit : exec i s = .next (readOp (fun c b => c.setP (bitTest c.a b c.p)) o cyc s) ∧
      (o.fetch s).crossed = false ∧ o.length = len := by
    simp only [List.mem_cons, List.not_mem_nil, or_false, Prod.mk.injEq] at hm
    obtain ⟨rfl, rfl, rfl, rfl⟩ | ⟨rfl, rfl, rfl, rfl⟩ := hm
    · exact ⟨rfl, rfl, rfl⟩
    · exact ⟨rfl, rfl, rfl⟩
  obtain ⟨hx, hc, rfl⟩ := bit
  simp only [← bitTest_eq]
  exact exec_of_readOp_uncrossed (f := fun c b => c.setP (bitTest c.a b c.p)) (fun _ _ => rfl) hx hc

end Sys2Proof.Machine
end

section
/-! SUPPORT. The arithmetic and compare instructions (44_arithmetic_compare.md R210 to R214) in integers. -/

namespace Sys2Proof.Machine

/-! ### ADC -/

theorem and_0x80_bne_zero (x : Byte) : (x &&& 0x80#8 != 0#8) = x.msb := by
  rw [show (0x80#8 : Byte) = BitVec.twoPow 8 7 from rfl, BitVec.and_twoPow]
  cases h : x.getLsbD 7 <;> exact h.symm

theorem bitNat_le_one (b : Bool) : bitNat b ≤ 1 := by cases b <;> decide

/-- The sign test of R210: the sum differs in sign from both operands just when the true signed sum lies
outside -128..127. -/
theorem adc_overflow (a m : Byte) (carry : Bool) :
    let r := BitVec.ofNat 8 (adcSum a m carry)
    let signed := a.toInt + m.toInt + bitNat carry
    ((a ^^^ r) &&& (m ^^^ r) &&& 0x80#8 != 0#8) = decide (signed < -128 ∨ 127 < signed) := by
  intro r signed
  have hr : r.msb = decide (128 ≤ (a.toNat + m.toNat + bitNat carry) % 256) := by
    rw [BitVec.msb_eq_decide, BitVec.toNat_ofNat, adcSum]
  have hc := bitNat_le_one carry
  rw [and_0x80_bne_zero, BitVec.msb_and, BitVec.msb_xor, BitVec.msb_xor, hr, Bool.eq_iff_iff, decide_eq_true_iff]
  simp only [signed, BitVec.toInt_eq_msb_cond]
  -- The operands' signs: with different ones the sum fits; with equal ones only the sign of `r` tells.
  cases ha : a.msb <;> cases hm : m.msb
  all_goals
    simp [BitVec.msb_eq_decide] at ha hm ⊢
    omega

/-- ADC in integers (R210). -/
theorem adc_eq (a m : Byte) (p : Flags) :
    let sum := a.toNat + m.toNat + bitNat p.c
    let signed := a.toInt + m.toInt + bitNat p.c
    let r := BitVec.ofNat 8 (sum % 256)
    adc a m p = ⟨r, { znOf p r with c := decide (sum > 255), v := decide (signed < -128 ∨ 127 < signed) }⟩ := by
  intro sum signed r
  have hr : r = BitVec.ofNat 8 sum := BitVec.eq_of_toNat_eq (Nat.mod_mod sum 256)
  rw [hr, ← adc_overflow]
  rfl

/-- Settles O21: row by row, ADC is a read whose effect on A and the flags is `adc`, in integers `adc_eq`. -/
theorem addWithCarry : Obligations.AddWithCarry := by
  unfold Obligations.AddWithCarry
  intro s v z a i o len cyc hm
  have row := readRows (s := s) (f := fun c b => c.setAcc (adc c.a b c.p)) (fun _ _ => rfl) ?adc i o len cyc hm
  case adc =>
    exact ⟨⟨rfl, rfl⟩, ⟨rfl, rfl⟩, ⟨rfl, rfl⟩, ⟨rfl, rfl⟩, ⟨rfl, rfl⟩, ⟨rfl, rfl⟩, ⟨rfl, rfl⟩, ⟨rfl, rfl⟩⟩
  rwa [adc_eq] at row

/-! ### SBC -/

theorem toInt_not_byte (m : Byte) : (~~~m).toInt = -1 - m.toInt := by
  simp only [BitVec.toInt_eq_toNat_cond, BitVec.toNat_not]
  omega

/-- SBC in integers (R211): adding the complement and C is subtracting the operand and the borrow. -/
theorem sbc_eq (a m : Byte) (p : Flags) :
    let borrow := 1 - bitNat p.c
    let signed : Int := a.toInt - m.toInt - borrow
    let r := a - m - BitVec.ofNat 8 borrow
    sbc a m p = ⟨r, { znOf p r with c := decide (m.toNat + borrow ≤ a.toNat),
                                    v := decide (signed < -128 ∨ 127 < signed) }⟩ := by
  intro borrow signed r
  have hc := bitNat_le_one p.c
  have complement : m ^^^ 0xFF#8 = ~~~m := BitVec.xor_allOnes
  have unsigned : (~~~m).toNat = 255 - m.toNat := BitVec.toNat_not
  have sum : (a.toNat + (255 - m.toNat) + bitNat p.c) % 256 = r.toNat := by
    simp only [r, borrow]
    bv_omega
  have carry : (a.toNat + (255 - m.toNat) + bitNat p.c > 255) = (m.toNat + borrow ≤ a.toNat) := by
    rw [eq_iff_iff]
    omega
  have sumSigned : a.toInt + (~~~m).toInt + bitNat p.c = signed := by
    rw [toInt_not_byte]
    omega
  rw [sbc, complement, adc_eq]
  simp only [unsigned, sum, carry, sumSigned, BitVec.ofNat_toNat, BitVec.setWidth_eq]

/-- Settles O22: row by row, SBC is a read whose effect on A and the flags is `sbc`, in integers `sbc_eq`. -/
theorem subtractWithBorrow : Obligations.SubtractWithBorrow := by
  unfold Obligations.SubtractWithBorrow
  intro s v z a i o len cyc hm
  have row := readRows (s := s) (f := fun c b => c.setAcc (sbc c.a b c.p)) (fun _ _ => rfl) ?sbc i o len cyc hm
  case sbc =>
    exact ⟨⟨rfl, rfl⟩, ⟨rfl, rfl⟩, ⟨rfl, rfl⟩, ⟨rfl, rfl⟩, ⟨rfl, rfl⟩, ⟨rfl, rfl⟩, ⟨rfl, rfl⟩, ⟨rfl, rfl⟩⟩
  rwa [sbc_eq] at row

/-! ### CMP, CPX, CPY -/

/-- Compares, each of its own register, in any mode. -/
theorem compareRows {s : State} {rows : List (Instr × Byte × Operand × Nat × Nat)}
    (h : rows.Forall fun (i, r, o, len, cyc) => ∃ reg : Cpu → Byte,
      exec i s = .next (readOp (fun c b => c.setP (compare (reg c) b c.p)) o cyc s) ∧ reg s.cpu = r ∧ o.length = len) :
    ∀ i r o len cyc, (i, r, o, len, cyc) ∈ rows →
      let m := o.fetch s
      exec i s = .next (ended m.after
        { s.cpu with p := compare r m.value s.cpu.p, pc := past s.cpu len } (cyc + bitNat m.crossed)) := by
  intro i r o len cyc hm
  obtain ⟨reg, hx, rfl, rfl⟩ := List.forall_iff_forall_mem.mp h _ hm
  exact exec_of_readOp (f := fun c b => c.setP (compare (reg c) b c.p)) (fun _ _ => rfl) hx

/-- Settles O23: row by row, CMP, CPX and CPY are reads whose effect on the flags is `compare` with their
register, and `compare` is the claim's flags by definition. -/
theorem compareResults : Obligations.CompareResults := by
  unfold Obligations.CompareResults
  intro s v z a
  refine compareRows ⟨?cmpImm, ?cmpZp, ?cmpZpx, ?cmpAbs, ?cmpAbx, ?cmpAby, ?cmpIzx, ?cmpIzy, ?cpxImm, ?cpxZp, ?cpxAbs,
    ?cpyImm, ?cpyZp, ?cpyAbs⟩
  case cmpImm | cmpZp | cmpZpx | cmpAbs | cmpAbx | cmpAby | cmpIzx | cmpIzy => exact ⟨Cpu.a, rfl, rfl, rfl⟩
  case cpxImm | cpxZp | cpxAbs => exact ⟨Cpu.x, rfl, rfl, rfl⟩
  case cpyImm | cpyZp | cpyAbs => exact ⟨Cpu.y, rfl, rfl, rfl⟩

end Sys2Proof.Machine
end

section
/-! SUPPORT. The increments, decrements, shifts and rotates (45_incdec.md R220 to R225, 46_shift_rotate.md R230 to
R233): the computations in integers, and the instructions that apply one to a byte of memory. -/

namespace Sys2Proof.Machine

/-! ### The computations in integers -/

theorem shiftLeft_one_eq (m : Byte) : m <<< 1 = BitVec.ofNat 8 (2 * m.toNat) := by bv_omega

theorem shiftRight_one_eq (m : Byte) : m >>> 1 = BitVec.ofNat 8 (m.toNat / 2) := by bv_omega

/-- Where the bit is clear, the OR of a carry into it is a sum. -/
theorem or_bitAt_eq_add {v : Byte} {k : Nat} (clear : v.getLsbD k = false) (c : Bool) :
    v ||| bitAt 8 c k = v + bitAt 8 c k := by
  refine (BitVec.add_eq_or_of_and_eq_zero _ _ ?disjoint).symm
  cases c with
  | false => simp [bitAt]
  | true =>
    rw [show bitAt 8 true k = BitVec.twoPow 8 k from rfl, BitVec.and_twoPow, clear]
    rfl

/-- ROL's result: the shift left frees bit 0 for the carry. -/
theorem shiftLeft_one_or_carry (m : Byte) (c : Bool) :
    m <<< 1 ||| bitAt 8 c 0 = BitVec.ofNat 8 (2 * m.toNat + bitNat c) := by
  have carry : bitAt 8 c 0 = BitVec.ofNat 8 (bitNat c) := by cases c <;> rfl
  rw [or_bitAt_eq_add (by simp), shiftLeft_one_eq, carry, BitVec.ofNat_add]

/-- ROR's result: the shift right frees bit 7 for the carry. -/
theorem shiftRight_one_or_carry (m : Byte) (c : Bool) :
    m >>> 1 ||| bitAt 8 c 7 = BitVec.ofNat 8 (m.toNat / 2 + 128 * bitNat c) := by
  have carry : bitAt 8 c 7 = BitVec.ofNat 8 (128 * bitNat c) := by cases c <;> rfl
  rw [or_bitAt_eq_add (by simp), shiftRight_one_eq, carry, BitVec.ofNat_add]

/-- `r` and the flags with Z and N from `r` and the carry `c`. -/
def withCarry (p : Flags) (r : Byte) (c : Bool) : Computed := ⟨r, { znOf p r with c := c }⟩

theorem increment_eq (m : Byte) (p : Flags) : increment m p = withCarry p (m + 1#8) p.c := rfl

theorem decrement_eq (m : Byte) (p : Flags) : decrement m p = withCarry p (m - 1#8) p.c := rfl

theorem asl_eq (m : Byte) (p : Flags) :
    asl m p = withCarry p (BitVec.ofNat 8 (2 * m.toNat)) (m.getLsbD 7) := by
  rw [← shiftLeft_one_eq]
  rfl

theorem lsr_eq (m : Byte) (p : Flags) :
    lsr m p = withCarry p (BitVec.ofNat 8 (m.toNat / 2)) (m.getLsbD 0) := by
  rw [← shiftRight_one_eq]
  rfl

theorem rol_eq (m : Byte) (p : Flags) :
    rol m p = withCarry p (BitVec.ofNat 8 (2 * m.toNat + bitNat p.c)) (m.getLsbD 7) := by
  rw [← shiftLeft_one_or_carry]
  rfl

theorem ror_eq (m : Byte) (p : Flags) :
    ror m p = withCarry p (BitVec.ofNat 8 (m.toNat / 2 + 128 * bitNat p.c)) (m.getLsbD 0) := by
  rw [← shiftRight_one_or_carry]
  rfl

/-! ### Read-modify-write instructions -/

/-- An instruction that runs `rmwOp`, when its write is made and when it is refused. -/
theorem exec_of_rmwOp {g : Byte → Flags → Computed} {i : Instr} {m : MemMode} {cyc : Nat} {s : State}
    (h : exec i s = rmwOp g m cyc s) :
    let l := m.locate s
    let r := busRead l.after l.ea
    let c := g r.1 s.cpu.p
    let t := busStore r.2 l.ea c.value
    (writeRefused s l.ea = false →
      exec i s = .next (ended t { t.cpu with p := c.flags, pc := past s.cpu m.length } cyc)) ∧
    (writeRefused s l.ea = true → exec i s = .fault (.badAccess l.ea .write r.2)) := by
  rw [h, rmwOp_eq]
  exact ⟨fun hr => if_neg (by simp [hr]), fun hr => if_pos hr⟩

/-- Read-modify-write instructions, each with its own computation. -/
theorem modifyRows {s : State} {rows : List (Instr × MemMode × Nat × Nat × (Byte → Byte) × (Byte → Bool))}
    (h : rows.Forall fun (i, m, len, cyc, f, carry) => ∃ g : Byte → Flags → Computed,
      exec i s = rmwOp g m cyc s ∧ m.length = len ∧ ∀ b, g b s.cpu.p = withCarry s.cpu.p (f b) (carry b)) :
    ∀ i m len cyc f carry, (i, m, len, cyc, f, carry) ∈ rows →
      let l := m.locate s
      let r := busRead l.after l.ea
      let t := busStore r.2 l.ea (f r.1)
      (writeRefused s l.ea = false →
        exec i s = .next (ended t
          { t.cpu with p := { znOf s.cpu.p (f r.1) with c := carry r.1 }, pc := past s.cpu len } cyc)) ∧
      (writeRefused s l.ea = true → exec i s = .fault (.badAccess l.ea .write r.2)) := by
  intro i m len cyc f carry hm
  obtain ⟨g, hx, rfl, hg⟩ := List.forall_iff_forall_mem.mp h _ hm
  have whole := exec_of_rmwOp hx
  dsimp only at whole
  rwa [hg] at whole

/-- Settles O24: row by row, INC, DEC and the shifts are `rmwOp` with their computation. -/
theorem modifyResults : Obligations.ModifyResults := by
  unfold Obligations.ModifyResults
  intro s z a
  refine modifyRows ⟨?incZp, ?incZpx, ?incAbs, ?incAbx, ?decZp, ?decZpx, ?decAbs, ?decAbx, ?aslZp, ?aslZpx, ?aslAbs,
    ?aslAbx, ?lsrZp, ?lsrZpx, ?lsrAbs, ?lsrAbx, ?rolZp, ?rolZpx, ?rolAbs, ?rolAbx, ?rorZp, ?rorZpx, ?rorAbs, ?rorAbx⟩
  case incZp | incZpx | incAbs | incAbx => exact ⟨increment, rfl, rfl, (increment_eq · _)⟩
  case decZp | decZpx | decAbs | decAbx => exact ⟨decrement, rfl, rfl, (decrement_eq · _)⟩
  case aslZp | aslZpx | aslAbs | aslAbx => exact ⟨asl, rfl, rfl, (asl_eq · _)⟩
  case lsrZp | lsrZpx | lsrAbs | lsrAbx => exact ⟨lsr, rfl, rfl, (lsr_eq · _)⟩
  case rolZp | rolZpx | rolAbs | rolAbx => exact ⟨rol, rfl, rfl, (rol_eq · _)⟩
  case rorZp | rorZpx | rorAbs | rorAbx => exact ⟨ror, rfl, rfl, (ror_eq · _)⟩

/-! ### INX, INY, DEX, DEY -/

/-- Settles O25: the four are register-only, and each is the load of X or Y with its neighbour. -/
theorem incDecRegisterResults : Obligations.IncDecRegisterResults := by
  unfold Obligations.IncDecRegisterResults
  intro s
  simp only [← setZN_eq]
  exact ⟨exec_registers (i := .inx) rfl s, exec_registers (i := .iny) rfl s, exec_registers (i := .dex) rfl s,
    exec_registers (i := .dey) rfl s⟩

end Sys2Proof.Machine
end

section
/-! SUPPORT. The shifts and rotates of the accumulator (46_shift_rotate.md R230 to R233). -/

namespace Sys2Proof.Machine

/-- An accumulator instruction, whole: its mnemonic's computation, here one that sets C and, from its result, Z and
N, applied to A. -/
theorem exec_accumulator {i : Instr} (hs : shapeOf i = .accumulator) {s : State} {r : Byte} {carry : Bool}
    (computed : modifyEffect (mnemonicOf i) s.cpu.a s.cpu.p = withCarry s.cpu.p r carry) :
    exec i s = .next (ended s
      { s.cpu with a := r, p := { znOf s.cpu.p r with c := carry }, pc := past s.cpu 1 } 2) := by
  have effect : exec i s = .next (accOp (modifyEffect (mnemonicOf i)) 2 s) := by
    simpa only [MnemonicSays, hs] using exec_mnemonic i s
  rw [effect, accOp, registerOp_eq rfl, computed]
  rfl

/-- Settles O26: the four accumulator instructions apply to A the computations of `asl_eq` to `ror_eq`, the ones
their memory forms apply to a byte of memory. -/
theorem shiftAccumulatorResults : Obligations.ShiftAccumulatorResults := by
  unfold Obligations.ShiftAccumulatorResults
  intro s
  exact ⟨exec_accumulator (i := .aslAcc) rfl (asl_eq _ _), exec_accumulator (i := .lsrAcc) rfl (lsr_eq _ _),
    exec_accumulator (i := .rolAcc) rfl (rol_eq _ _), exec_accumulator (i := .rorAcc) rfl (ror_eq _ _)⟩

end Sys2Proof.Machine
end

section
/-! SUPPORT. The jumps, the subroutine call and return, and the branches (47_jump_branch.md R240 to R252). -/

namespace Sys2Proof.Machine

/-! ### JMP -/

/-- The address with the pointer's page and only its low byte incremented. -/
theorem wordOf_loByte_succ (a : Word) :
    wordOf (hiByte a) (loByte a + 1#8) = BitVec.ofNat 16 (a.toNat / 256 * 256 + (a.toNat + 1) % 256) := by
  apply BitVec.eq_of_toNat_eq
  have := a.isLt
  simp only [wordOf_toNat, hiByte_toNat, loByte_toNat, BitVec.toNat_add, BitVec.toNat_ofNat]
  omega

/-- A jump, whole, after reads that leave the CPU registers. -/
theorem ReadEffect.jumpTo_eq {s u : State} (h : ReadEffect s u) (target : Word) (cyc : Nat) :
    jumpTo target cyc u = ended u { s.cpu with pc := target } cyc := by
  rw [← h.cpu]
  rfl

/-- Settles O27: a jump changes `PC` and `cyc` alone, and the indirect one's two reads leave the CPU registers. -/
theorem jumpResults : Obligations.JumpResults := by
  unfold Obligations.JumpResults
  intro s a
  refine ⟨rfl, ?jmpInd⟩
  case jmpInd =>
    rw [exec, execJmpInd, readIndirect, (readPair_effect s _ _).jumpTo_eq, wordOf_loByte_succ]
    rfl

/-! ### JSR and RTS -/

/-- The state JSR to `a` leaves (R242). -/
def afterCall (a : Word) (s : State) : State :=
  { s with ram := pushBytes s.ram s.cpu.sp [hiByte (s.cpu.pc + 2#16), loByte (s.cpu.pc + 2#16)]
           dataBus := loByte (s.cpu.pc + 2#16)
           cpu := { s.cpu with sp := s.cpu.sp - 2#8, pc := a }
           cyc := 6 }

/-- The word the next two pulls from `s` give, low byte first (00_scope.md R14). -/
def stackTopWord (s : State) : Word :=
  wordOf (Cells.read s.ram (0x0100 + (s.cpu.sp + 2#8).toNat)) (Cells.read s.ram (0x0100 + (s.cpu.sp + 1#8).toNat))

/-- The state RTS leaves (R243). -/
def afterReturn (s : State) : State :=
  { s with dataBus := Cells.read s.ram (0x0100 + (s.cpu.sp + 2#8).toNat)
           cpu := { s.cpu with sp := s.cpu.sp + 2#8, pc := stackTopWord s + 1#16 }
           cyc := 6 }

theorem exec_jsr (a : Word) (s : State) : exec (.jsr a) s = .next (afterCall a s) := by
  rw [exec, execJsr, push16, push_eq, push_eq, sub_two]
  rfl

theorem exec_rts (s : State) : exec .rts s = .next (afterReturn s) := by
  rw [exec, execRts, pull16, pull_eq, pull_eq, add_two]
  rfl

/-- A call leaves the address of its last byte on top of the stack. -/
theorem stackTopWord_afterCall (a : Word) (s : State) : stackTopWord (afterCall a s) = s.cpu.pc + 2#16 := by
  have top : s.cpu.sp - 2#8 + 2#8 = s.cpu.sp := BitVec.sub_add_cancel _ _
  have second : s.cpu.sp - 2#8 + 1#8 = s.cpu.sp - 1#8 := by bv_omega
  have apart : 0x0100 + s.cpu.sp.toNat ≠ 0x0100 + (s.cpu.sp - 1#8).toNat := by bv_omega
  simp only [stackTopWord, afterCall, pushBytes, top, second, Cells.read_write_same, Cells.read_write_other _ _ apart,
    wordOf_parts]

/-- RTS after JSR gives the CPU registers back, `PC` past the JSR. -/
theorem afterReturn_afterCall_cpu (a : Word) (s : State) :
    (afterReturn (afterCall a s)).cpu = { s.cpu with pc := s.cpu.pc + 3#16 } := by
  have sp : s.cpu.sp - 2#8 + 2#8 = s.cpu.sp := BitVec.sub_add_cancel _ _
  have pc : s.cpu.pc + 2#16 + 1#16 = s.cpu.pc + 3#16 := BitVec.add_assoc _ _ _
  rw [afterReturn, stackTopWord_afterCall, pc]
  simp only [afterCall, sp]

/-- Settles O28: the call and the return, whole, and the call's `PC` read back from the stack. -/
theorem subroutineResults : Obligations.SubroutineResults := by
  unfold Obligations.SubroutineResults
  intro s a
  refine ⟨exec_jsr a s, exec_rts s, ?roundTrip⟩
  intro t u call ret
  cases (exec_jsr a s).symm.trans call
  cases (exec_rts _).symm.trans ret
  exact afterReturn_afterCall_cpu a s

/-! ### The branches -/

/-- A sign-extended displacement is added modulo 65536. -/
theorem add_signExtend (next : Word) (d : Byte) :
    next + d.signExtend 16 = BitVec.ofInt 16 (next.toNat + d.toInt) := by
  rw [BitVec.ofInt_add, BitVec.ofInt_natCast, BitVec.ofNat_toNat, BitVec.setWidth_eq]
  rfl

/-- The target of a branch in integers; it lies in another page when the quotients by 256 differ. -/
theorem branchTarget_eq (pc : Word) (d : Byte) :
    let next := pc + 2#16
    let target := BitVec.ofInt 16 (next.toNat + d.toInt)
    branchTarget pc d = (target, decide (target.toNat / 256 ≠ next.toNat / 256)) := by
  rw [branchTarget, add_signExtend, hiByte_bne]

/-- A branch, whole, in integers (R244). -/
theorem branch_eq_ite (cond : Bool) (d : Byte) (s : State) :
    let next := s.cpu.pc + 2#16
    let target := BitVec.ofInt 16 (next.toNat + d.toInt)
    branch cond d s =
      if cond then
        ended s { s.cpu with pc := target } (if target.toNat / 256 ≠ next.toNat / 256 then 4 else 3)
      else ended s { s.cpu with pc := next } 2 := by
  intro next target
  cases cond with
  | true =>
    have cycles : 3 + bitNat (decide (target.toNat / 256 ≠ next.toNat / 256)) =
        if target.toNat / 256 ≠ next.toNat / 256 then 4 else 3 := by
      simp only [bitNat, decide_eq_true_iff]
      split <;> rfl
    rw [branch, branchTarget_eq, if_pos rfl, if_pos rfl, ← cycles]
    rfl
  | false => rfl

/-- Branches, each on its own condition. -/
theorem branchRows {s : State} {d : Byte} {rows : List (Instr × Bool)}
    (h : rows.Forall fun (i, cond) => exec i s = .next (branch cond d s)) {i : Instr} {cond : Bool}
    (hm : (i, cond) ∈ rows) : exec i s = .next (branch cond d s) :=
  List.forall_iff_forall_mem.mp h _ hm

/-- Settles O29: row by row, the branches are `branch` on their flag, in integers `branch_eq_ite`. -/
theorem branchResults : Obligations.BranchResults := by
  unfold Obligations.BranchResults
  intro s d i cond p hm
  have row := branchRows (s := s) (d := d) ?flags hm
  case flags => exact ⟨rfl, rfl, rfl, rfl, rfl, rfl, rfl, rfl⟩
  rwa [branch_eq_ite] at row

end Sys2Proof.Machine
end

section
/-! SUPPORT. The flag instructions, BRK and RTI (48_flag_ops.md, 49_system.md), the interrupt sequence and its
services (60_exceptions.md R310 to R322). -/

namespace Sys2Proof.Machine

/-! ### Flag instructions -/

/-- Instructions of one byte, each with the flags it leaves. -/
theorem flagRows {s : State} {rows : List (Instr × Flags)}
    (h : rows.Forall fun (i, p) => exec i s = .next (ended s { s.cpu with p := p, pc := past s.cpu 1 } 2))
    {i : Instr} {p : Flags} (hm : (i, p) ∈ rows) :
    exec i s = .next (ended s { s.cpu with p := p, pc := past s.cpu 1 } 2) :=
  List.forall_iff_forall_mem.mp h _ hm

/-- Settles O30: the flag instructions and NOP are register-only, row by row. -/
theorem flagInstructions : Obligations.FlagInstructions := by
  unfold Obligations.FlagInstructions
  intro s i p hm
  refine flagRows ?each hm
  exact ⟨exec_registers (i := .clc) rfl s, exec_registers (i := .sec) rfl s,
    exec_registers (i := .cli) rfl s, exec_registers (i := .sei) rfl s, exec_registers (i := .cld) rfl s,
    exec_registers (i := .sed) rfl s, exec_registers (i := .clv) rfl s, exec_registers (i := .nop) rfl s⟩

/-! ### Taking an interrupt and returning from one -/

/-- Settles O7: `takeInterrupt_eq`, the pushed P without bit 4. -/
theorem interruptSequence : Obligations.InterruptSequence := by
  unfold Obligations.InterruptSequence
  intro s vector h1 h2
  rw [takeInterrupt_eq _ _ _ _ h1 h2, pushed_false]

/-- Settles O10: `takeInterrupt_eq` through 0xFFFE, the pushed P with bits 5 and 4. -/
theorem breakInstruction : Obligations.BreakInstruction := by
  unfold Obligations.BreakInstruction
  intro s
  rw [exec, execBrk, takeInterrupt_eq _ _ _ _ (by decide) (by decide), pushed_true]
  rfl

theorem exec_rti (s : State) : exec .rti s = .next ((returnFromInterrupt s).setCyc 6) := rfl

/-- Settles O11: the three pulls of `returnFromInterrupt_eq`. -/
theorem returnFromInterruptResults : Obligations.ReturnFromInterrupt := by
  unfold Obligations.ReturnFromInterrupt
  intro s b lo hi
  rw [exec_rti, returnFromInterrupt_eq]
  rfl

/-- RTI after an interrupt entry finds the pushed frame: every CPU register is as before, `PC` the pushed one. -/
theorem returnFromInterrupt_takeInterrupt_cpu (s : State) {vector : Word} (ret : Word) (b : Bool)
    (h1 : 0x8000 ≤ vector.toNat) (h2 : vector.toNat < 0xFFFF) :
    (returnFromInterrupt (takeInterrupt vector ret b s)).cpu = { s.cpu with pc := ret } := by
  rw [takeInterrupt_eq _ _ _ _ h1 h2, returnFromInterrupt_eq]
  have up1 : s.cpu.sp - 3#8 + 1#8 = s.cpu.sp - 2#8 := by bv_omega
  have up2 : s.cpu.sp - 3#8 + 2#8 = s.cpu.sp - 1#8 := by bv_omega
  have up3 : s.cpu.sp - 3#8 + 3#8 = s.cpu.sp := by bv_omega
  obtain ⟨status, low, high⟩ := read_pushedFrame s.ram s.cpu.sp ret (s.cpu.p.pushed b)
  dsimp only
  rw [up1, up2, up3, status, low, high, flagsOf_pushed, wordOf_parts]

/-- RTI looks at the CPU registers and RAM alone. -/
theorem returnFromInterrupt_setCyc_cpu (s : State) (n : Nat) :
    (returnFromInterrupt (s.setCyc n)).cpu = (returnFromInterrupt s).cpu := by
  rw [returnFromInterrupt_eq, returnFromInterrupt_eq]
  rfl

/-- RTI after an interrupt entry, as instructions see it. -/
theorem exec_rti_takeInterrupt_cpu {s t : State} {vector ret : Word} {b : Bool} (h1 : 0x8000 ≤ vector.toNat)
    (h2 : vector.toNat < 0xFFFF) (h : exec .rti (takeInterrupt vector ret b s) = .next t) :
    t.cpu = { s.cpu with pc := ret } := by
  rw [exec_rti] at h
  rw [← Host.Outcome.next.inj h, State.setCyc_cpu]
  exact returnFromInterrupt_takeInterrupt_cpu s ret b h1 h2

/-- Settles O12: the three entries are `takeInterrupt`, which RTI undoes. -/
theorem interruptRoundTrip : Obligations.InterruptRoundTrip := by
  unfold Obligations.InterruptRoundTrip
  intro s
  refine ⟨fun t => exec_rti_takeInterrupt_cpu (by decide) (by decide),
    fun t => exec_rti_takeInterrupt_cpu (by decide) (by decide), fun t u ht hu => ?brk⟩
  case brk =>
    rw [exec, execBrk] at ht
    rw [exec_rti, ← Host.Outcome.next.inj ht] at hu
    rw [← Host.Outcome.next.inj hu, State.setCyc_cpu, returnFromInterrupt_setCyc_cpu]
    exact returnFromInterrupt_takeInterrupt_cpu s _ _ (by decide) (by decide)

/-! ### Servicing an interrupt -/

/-- A service and the end of its CPU step, whole: 7 cycles and the stalls. -/
theorem settle_serviceInterrupt (s : State) {vector : Word} (h1 : 0x8000 ≤ vector.toNat)
    (h2 : vector.toNat < 0xFFFF) :
    settle (serviceInterrupt vector s) =
      { s with
        ram := pushedFrame s.ram s.cpu.sp s.cpu.pc (BitVec.ofNat 8 (statusOf s.cpu.p))
        dataBus := prgByte s (vector + 1#16)
        cpu := { s.cpu with sp := s.cpu.sp - 3#8, p := { s.cpu.p with i := true },
                            pc := vectorWord s vector,
                            cycles := s.cpu.cycles + (7 + s.pendingStall) }
        pendingStall := 0
        cyc := 7 + s.pendingStall } := by
  rw [serviceInterrupt, takeInterrupt_eq _ _ _ _ h1 h2, pushed_false]
  rfl

/-- Settles O8: the poll serves a latched NMI before it looks at `P.I`. -/
theorem nmiService : Obligations.NmiService := by
  unfold Obligations.NmiService
  intro s h
  rw [cpuStep, pollAndRun, if_pos h, andThen, settle_serviceInterrupt _ (by decide) (by decide)]
  rfl

/-- `irq_line` is the OR of the three device flags. -/
theorem irqLine_iff (s : State) :
    s.irqLine = true ↔ s.apu.frame.frameIrq = true ∨ s.apu.dmc.irqFlag = true ∨
      ∃ m, s.mapper = .mmc3 m ∧ m.irqFlag = true := by
  have mapper : irqPending s.mapper = true ↔ ∃ m, s.mapper = .mmc3 m ∧ m.irqFlag = true := by
    cases s.mapper with
    | mmc3 m => simp [irqPending]
    | _ => simp [irqPending]
  simp only [State.irqLine, Bool.or_eq_true, mapper, or_assoc]

/-- Settles O9: the poll serves the line when `P.I` is clear, and else runs the instruction at PC. -/
theorem irqService : Obligations.IrqService := by
  unfold Obligations.IrqService
  intro s
  refine ⟨irqLine_iff s, fun hn hl hi => ⟨_, ?service, ?line, rfl⟩, fun hn hi => ?masked⟩
  case service =>
    rw [cpuStep, pollAndRun, if_neg (by simp [hn]), if_pos (by simp [hl, hi]), andThen,
      settle_serviceInterrupt _ (by decide) (by decide)]
    rfl
  case line => exact hl
  case masked => rw [cpuStep, pollAndRun, if_neg (by simp [hn]), if_neg (by simp [hi])]

end Sys2Proof.Machine
end

section
/-! SUPPORT. Refused writes, and how a step can stop (60_exceptions.md R300 to R304, 64_mappers.md R607). -/

namespace Sys2Proof.Machine

/-! ### Refused writes -/

/-- The writes R607 gives no meaning. -/
theorem writeMeaningless_iff (s : State) (a : Word) :
    writeMeaningless s a = true ↔
      (0x4020 ≤ a.toNat ∧ a.toNat < 0x6000) ∨ (0x8000 ≤ a.toNat ∧ s.mapper = .nrom) := by
  simp only [writeMeaningless, Bool.or_eq_true, Bool.and_eq_true, decide_eq_true_eq]

/-- A write without meaning, made all the same, changes only the bus latch. -/
theorem busStore_meaningless {s : State} {a : Word} (v : Byte) (h : writeMeaningless s a = true) :
    busStore s a v = s.setDataBus v := by
  obtain ⟨h1, h2⟩ | ⟨h1, hm⟩ := (writeMeaningless_iff s a).mp h
  · rw [busStore_mapperRow v h1, mapperCpuWrite, if_pos h2]
  · rw [busStore_mapperRow v (by omega), mapperCpuWrite, if_neg (by omega), if_neg (by omega),
      State.setDataBus_mapper, hm, mapperRegWrite, ← hm]
    rfl

/-- A write to 0x6000..0x7FFF without PRG RAM changes only the bus latch. -/
theorem busStore_noPrgRam {s : State} {a : Word} (v : Byte) (h1 : 0x6000 ≤ a.toNat) (h2 : a.toNat < 0x8000)
    (h : s.cart.prgRamSize = 0) : busStore s a v = s.setDataBus v := by
  have closed : prgRamReadable (s.setDataBus v) = false := prgRamReadable_eq_false (.inl h)
  have off : ¬prgRamWritable (s.setDataBus v) = true := fun hw =>
    Bool.eq_false_iff.mp closed (prgRamReadable_of_writable hw)
  rw [busStore_mapperRow v (by omega), mapperCpuWrite, if_neg (by omega), if_pos h2, if_neg off]

/-- Settles O38: what is refused is what has no meaning, while STRICT_MAPPER_ACCESS. -/
theorem refusedWrites : Obligations.RefusedWrites := by
  unfold Obligations.RefusedWrites
  intro s a v meaningless
  have hm : writeMeaningless s a = true ↔ meaningless := writeMeaningless_iff s a
  refine ⟨fun h strict => ?fault, fun h lax => ?ignored, fun h => ?answered, fun h1 h2 h => ?noRam⟩
  case fault => exact busWrite_fault v (by rw [writeRefused, strict, hm.mpr h]; rfl)
  case ignored =>
    rw [busWrite_next v (by rw [writeRefused, lax]; rfl), busStore_meaningless v (hm.mpr h)]
    rfl
  case answered =>
    exact busWrite_next v (by rw [writeRefused, Bool.eq_false_iff.mpr (mt hm.mp h), Bool.and_false])
  case noRam =>
    have meant : ¬meaningless := by
      rintro (⟨_, h⟩ | ⟨h, _⟩) <;> omega
    rw [busWrite_next v (by rw [writeRefused, Bool.eq_false_iff.mpr (mt hm.mp meant), Bool.and_false]),
      busStore_noPrgRam v h1 h2 h]
    rfl

/-! ### Instructions -/

/-- An instruction answers, or its one write is refused. -/
theorem exec_next_or_fault (i : Instr) (s : State) :
    (∃ t, exec i s = .next t) ∨
      ∃ m left, (shapeOf i = .stores m ∨ shapeOf i = .modifies m) ∧ writeRefused s (m.locate s).ea = true ∧
        exec i s = .fault (.badAccess (m.locate s).ea .write left) := by
  have hs := exec_shape i s
  cases hsh : shapeOf i <;> rw [hsh] at hs
  case stores m =>
    obtain ⟨value, base, e⟩ := hs
    rw [storeOp_eq] at e
    split at e
    · rename_i hr
      exact .inr ⟨m, _, .inl rfl, hr, e⟩
    · exact .inl ⟨_, e⟩
  case modifies m =>
    obtain ⟨f, base, e, -⟩ := hs
    rw [rmwOp_eq] at e
    split at e
    · rename_i hr
      exact .inr ⟨m, _, .inr rfl, hr, e⟩
    · exact .inl ⟨_, e⟩
  case reads o => obtain ⟨f, base, e, -⟩ := hs; exact .inl ⟨_, e⟩
  case accumulator => obtain ⟨f, e⟩ := hs; exact .inl ⟨_, e⟩
  case registers => obtain ⟨f, e, -⟩ := hs; exact .inl ⟨_, e⟩
  case pushes => obtain ⟨ram, bus, sp, p, pc, cyc, -, e⟩ := hs; exact .inl ⟨_, e⟩
  case pulls => obtain ⟨bus, a, sp, p, pc, cyc, e⟩ := hs; exact .inl ⟨_, e⟩
  case jumps => obtain ⟨target, cyc, u, e, -⟩ := hs; exact .inl ⟨_, e⟩
  case branches => obtain ⟨cond, d, e⟩ := hs; exact .inl ⟨_, e⟩

/-- Settles O36: only a refused write keeps an instruction from answering. -/
theorem everyInstructionCompletes : Obligations.EveryInstructionCompletes := by
  unfold Obligations.EveryInstructionCompletes
  intro i s h
  obtain ht | ⟨m, left, hsh, refused, -⟩ := exec_next_or_fault i s
  · exact ht
  · rw [h m hsh] at refused
    cases refused

/-! ### The fetch -/

/-- The bytes an opcode's fetch reads decode when the opcode is in the table. -/
theorem fetchInstr_instr_eq_none_iff (s : State) :
    (fetchInstr s).instr = none ↔ formOf (fetchInstr s).opcode = none := by
  have count := fetchBytes_length (fetchLength (busRead s s.cpu.pc).1 - 1) (s.cpu.pc + 1#16) (busRead s s.cpu.pc).2
  simp only [fetchInstr, Option.map_eq_none_iff]
  generalize fetchBytes _ _ _ = ops at count ⊢
  unfold fetchLength at count
  simp only [decode]
  cases hf : formOf (busRead s s.cpu.pc).1 with
  | none => simp
  | some form =>
    rw [hf] at count
    cases form with
    | f1 i => simp
    | f2 build =>
      obtain ⟨b, hb⟩ := List.length_eq_one_iff.mp count
      simp [hb]
    | f3 build =>
      obtain ⟨b1, b2, hb⟩ := List.length_eq_two.mp count
      simp [hb]

/-- The fetch of an opcode outside the table is one read. -/
theorem fetchInstr_after_undefined {s : State} (h : formOf (busRead s s.cpu.pc).1 = none) :
    (fetchInstr s).after = (busRead s s.cpu.pc).2 := by
  simp only [fetchInstr, fetchLength, h]
  rfl

/-- The instruction at PC, when its opcode is outside the table. -/
theorem cpuInstruction_undefined {s : State} (h : formOf (busRead s s.cpu.pc).1 = none) :
    cpuInstruction s = undefinedOpcode (busRead s s.cpu.pc).1 (busRead s s.cpu.pc).2 := by
  have none : (fetchInstr s).instr = none := (fetchInstr_instr_eq_none_iff s).mpr h
  rw [cpuInstruction, none, fetchInstr_after_undefined h]
  rfl

/-! ### The step -/

/-- A step with no interrupt to service runs the instruction at PC. -/
theorem step_quiet {s : State} (h : quiet s) :
    step s = andThen (cpuInstruction s) fun t => .next (advance (t.cyc + t.pendingStall) (settle t)) := by
  rw [step, tick, cpuStep, pollAndRun_quiet h]
  cases cpuInstruction s <;> rfl

/-- Settles O5: the poll lets the instruction at PC run, and `settle` and `advance` are the rest. -/
theorem stepRunsDecodedInstruction : Obligations.StepRunsDecodedInstruction := by
  unfold Obligations.StepRunsDecodedInstruction
  intro s n i hq hd
  rw [step_quiet hq, cpuInstruction_of_decode hd]
  rfl

/-- A fetch from RAM or from the cartridge changes the bus latch alone. -/
theorem busRead_memory {s : State} {a : Word} (h : a.toNat < 0x2000 ∨ 0x4020 ≤ a.toNat) :
    (busRead s a).2 = s.setDataBus (busRead s a).1 := by
  obtain h | h := h
  · rw [busRead_ramRow h]
  · rw [busRead_mapperRow h]

/-- Settles O6: the fetch of an undefined opcode is one read, and nothing admits it. -/
theorem undefinedOpcodeFaults : Obligations.UndefinedOpcodeFaults := by
  unfold Obligations.UndefinedOpcodeFaults
  intro s hq hf hn
  refine ⟨?_, busRead_memory⟩
  rw [step_quiet hq, cpuInstruction_undefined hf, undefinedOpcode, busRead_params, hn, busRead_cpu]
  rfl

/-! ### How a step stops -/

/-- How the CPU step of `s` can stop: never by a refusal, and by a fault of two kinds. -/
def StopsProperly (s : State) : Result → Prop
  | .next _ => True
  | .refused _ => False
  | .fault (.decodeError op pc _) => pc = s.cpu.pc ∧ formOf op = none ∧ s.params.unofficialNops.lookup op = none
  | .fault (.badAccess a kind _) => kind = .write ∧ writeRefused s a = true

/-- What runs after the reads of a fetch stops as it would before them. -/
theorem StopsProperly.of_read {s t : State} (e : ReadEffect s t) {r : Result} (h : StopsProperly t r) :
    StopsProperly s r := by
  match r with
  | .next _ => exact h
  | .refused _ => exact h
  | .fault (.decodeError op pc left) => simpa only [StopsProperly, e.cpu, e.params] using h
  | .fault (.badAccess a kind left) => simpa only [StopsProperly, writeRefused_congr e] using h

theorem exec_stops (i : Instr) (s : State) : StopsProperly s (exec i s) := by
  obtain ⟨t, h⟩ | ⟨m, left, -, refused, h⟩ := exec_next_or_fault i s
  · rw [h]; trivial
  · rw [h]; exact ⟨rfl, refused⟩

theorem undefinedOpcode_stops {op : Byte} {s : State} (h : formOf op = none) :
    StopsProperly s (undefinedOpcode op s) := by
  unfold undefinedOpcode
  split
  · trivial
  · rename_i hn
    exact ⟨rfl, h, hn⟩

theorem cpuInstruction_stops (s : State) : StopsProperly s (cpuInstruction s) := by
  unfold cpuInstruction
  dsimp only
  split
  · exact (exec_stops _ _).of_read (fetchInstr_effect s)
  · rename_i hi
    exact (undefinedOpcode_stops ((fetchInstr_instr_eq_none_iff s).mp hi)).of_read (fetchInstr_effect s)

/-- An interrupt service never stops; the instruction at PC stops properly, and nothing after it stops. -/
theorem step_stops (s : State) : StopsProperly s (step s) := by
  have poll : StopsProperly s (pollAndRun s) := by
    unfold pollAndRun
    split
    · trivial
    split
    · trivial
    · exact cpuInstruction_stops s
  unfold step tick cpuStep
  cases hp : pollAndRun s with
  | next t => trivial
  | fault e => rw [hp] at poll; exact poll
  | refused e => rw [hp] at poll; exact poll

/-- Settles O37: `step_stops`, and a write is refused where it has no meaning. -/
theorem stopsAreFaultsOfTwoKinds : Obligations.StopsAreFaultsOfTwoKinds := by
  unfold Obligations.StopsAreFaultsOfTwoKinds
  intro s
  have stops := step_stops s
  refine ⟨fun r h => ?refusal, fun e h => ?fault⟩
  case refusal => rw [h] at stops; exact stops
  case fault =>
    rw [h] at stops
    cases e with
    | decodeError op pc left =>
      obtain ⟨rfl, undefined, unadmitted⟩ := stops
      exact .inl ⟨op, left, rfl, undefined, unadmitted⟩
    | badAccess a kind left =>
      obtain ⟨rfl, refused⟩ := stops
      rw [writeRefused, Bool.and_eq_true, writeMeaningless_iff] at refused
      exact .inr ⟨a, left, rfl, refused⟩

end Sys2Proof.Machine
end

section
/-! SUPPORT. Bits of values in integers: bits, fields, masks, and the OR of values that share no bit. -/

namespace Sys2Proof

/-- A field in integers. -/
theorem field_eq_ofNat {n : Nat} (v : BitVec n) (lo k : Nat) :
    field v lo k = BitVec.ofNat k (v.toNat / 2 ^ lo % 2 ^ k) := by
  apply BitVec.eq_of_toNat_eq
  rw [field, BitVec.extractLsb'_toNat, BitVec.toNat_ofNat, Nat.mod_mod, Nat.shiftRight_eq_div_pow]

/-- A bit read off an integer. -/
theorem bit_eq_decide {n : Nat} (v : BitVec n) (i : Nat) : bit v i = decide (v.toNat / 2 ^ i % 2 = 1) :=
  Nat.testBit_eq_decide_div_mod_eq

/-- Values that share no bit are ORed by adding them. -/
theorem or_and_eq_add {n : Nat} {x m : BitVec n} (h : x &&& m = 0#n) (b : BitVec n) : x ||| (b &&& m) = x + (b &&& m) := by
  rw [BitVec.add_eq_or_of_and_eq_zero]
  rw [BitVec.and_comm b, ← BitVec.and_assoc, h, BitVec.zero_and]

/-- A mask of the low bits is a remainder. -/
theorem and_low {n : Nat} (b : BitVec n) {k : Nat} (h : k ≤ n) :
    b &&& BitVec.ofNat n (2 ^ k - 1) = BitVec.ofNat n (b.toNat % 2 ^ k) := by
  have hk : 2 ^ k ≤ 2 ^ n := Nat.pow_le_pow_right (by decide) h
  have hr := Nat.mod_lt b.toNat (Nat.two_pow_pos k)
  have mask : (2 ^ k - 1) % 2 ^ n = 2 ^ k - 1 := Nat.mod_eq_of_lt (by omega)
  have rest : b.toNat % 2 ^ k % 2 ^ n = b.toNat % 2 ^ k := Nat.mod_eq_of_lt (by omega)
  apply BitVec.eq_of_toNat_eq
  rw [BitVec.toNat_and, BitVec.toNat_ofNat, BitVec.toNat_ofNat, mask, rest, Nat.and_two_pow_sub_one_eq_mod]

/-- A mask of the high bits drops the remainder. -/
theorem and_high {n : Nat} (b : BitVec n) {k : Nat} (h : k ≤ n) :
    b &&& ~~~BitVec.ofNat n (2 ^ k - 1) = BitVec.ofNat n (b.toNat / 2 ^ k * 2 ^ k) := by
  have split : (b &&& ~~~BitVec.ofNat n (2 ^ k - 1)) + (b &&& BitVec.ofNat n (2 ^ k - 1)) = b := by
    rw [← or_and_eq_add (by rw [BitVec.and_assoc, BitVec.and_comm (~~~_), BitVec.and_not_self]; simp),
      ← BitVec.and_or_distrib_left, BitVec.or_comm, BitVec.or_not_self, BitVec.and_allOnes]
  have parts : BitVec.ofNat n (b.toNat / 2 ^ k * 2 ^ k) + BitVec.ofNat n (b.toNat % 2 ^ k) = b := by
    rw [← BitVec.ofNat_add, Nat.div_add_mod', BitVec.ofNat_toNat, BitVec.setWidth_eq]
  rw [and_low b h] at split
  exact add_right_cancel (split.trans parts.symm)

/-- A bit in integers. -/
theorem bitAt_eq_ofNat (n : Nat) (b : Bool) (i : Nat) : bitAt n b i = BitVec.ofNat n (bitNat b * 2 ^ i) := by
  apply BitVec.eq_of_toNat_eq
  cases b with
  | false => simp [bitAt, bitNat]
  | true => simpa [bitAt, bitNat, Nat.shiftLeft_eq] using Nat.pow_mod 2 i (2 ^ n)

/-! ### Fields as concatenations -/

/-- A field written between the high and the low bits of a value. -/
theorem putField_eq_append {a k lo : Nat} (v : BitVec (a + k + lo)) (f : BitVec k) :
    putField v lo f = v.extractLsb' (lo + k) a ++ f ++ v.extractLsb' 0 lo := by
  refine putField_bits v lo f fun i hi => ?_
  simp only [BitVec.getLsbD_append, BitVec.getLsbD_extractLsb']
  by_cases h1 : i < lo
  · rw [if_neg (c := lo ≤ i ∧ i < lo + k) (by omega)]
    simp [h1]
  by_cases h2 : i - lo < k
  · rw [if_pos (c := lo ≤ i ∧ i < lo + k) (by omega)]
    simp [h1, h2]
  · rw [if_neg (c := lo ≤ i ∧ i < lo + k) (by omega)]
    simp [h1, h2, (by omega : lo + k + (i - lo - k) = i), (by omega : i - lo - k < a)]

/-- A field written to the low bits of a value. -/
theorem putField_zero_eq_append {a k : Nat} (v : BitVec (a + k)) (f : BitVec k) :
    putField v 0 f = v.extractLsb' k a ++ f := by
  refine putField_bits v 0 f fun i hi => ?_
  simp only [BitVec.getLsbD_append, BitVec.getLsbD_extractLsb']
  by_cases h : i < k
  · simp [h]
  · simp [h, (by omega : k + (i - k) = i), (by omega : i - k < a)]

end Sys2Proof
end

section
/-! SUPPORT. The controllers and OAM DMA (61_bus_dma_controllers.md R360 to R373). -/

namespace Sys2Proof.Machine

/-! ### Controllers, one access -/

/-- The strobe write, whole (R371). -/
theorem busStore_strobe (s : State) (v : Byte) :
    busStore s 0x4016#16 v =
      { s with
        dataBus := v
        pads := { s.pads with
          shift1 := if s.pads.strobe = false ∧ v.getLsbD 0 = true then s.pads.snapshot1 else s.pads.shift1
          shift2 := if s.pads.strobe = false ∧ v.getLsbD 0 = true then s.pads.snapshot2 else s.pads.shift2
          strobe := v.getLsbD 0 } } := by
  have row : busStore s 0x4016#16 v = (s.setDataBus v).setPads (s.pads.writeStrobe v) := rfl
  rw [row, Pads.writeStrobe, bit]
  cases hs : s.pads.strobe <;> cases hv : v.getLsbD 0 <;> simp [State.setPads, State.setDataBus]

/-- A data read gives the register's low bit under the three high bits of the bus latch. -/
theorem padByte_eq (shift bus : Byte) :
    padByte shift bus = BitVec.ofNat 8 (bus.toNat / 32 * 32 + shift.toNat % 2) := by
  have low : bitNat (bit shift 0) = shift.toNat % 2 := by
    rw [bitNat, bit, BitVec.getLsbD, Nat.testBit_zero]
    have := Nat.mod_two_eq_zero_or_one shift.toNat
    simp only [decide_eq_true_eq]
    split <;> omega
  rw [padByte, or_bitAt_eq_add (by simp), bitAt_eq_ofNat, low, BitVec.ofNat_add, pow_zero, Nat.mul_one]
  exact congrArg (· + _) (and_high bus (k := 5) (by decide))

/-- A shift to the right with a 1 entering at bit 7. -/
theorem padShift_eq (shift : Byte) : padShift shift = BitVec.ofNat 8 (shift.toNat / 2 + 128) :=
  shiftRight_one_or_carry shift true

/-- A data read of controller 1, whole (R372). -/
theorem busRead_pad1 (s : State) :
    busRead s 0x4016#16 =
      (padByte s.pads.shift1 s.dataBus,
        { s with dataBus := padByte s.pads.shift1 s.dataBus
                 pads := if s.pads.strobe then s.pads else { s.pads with shift1 := padShift s.pads.shift1 } }) := rfl

/-- A data read of controller 2, whole (R372). -/
theorem busRead_pad2 (s : State) :
    busRead s 0x4017#16 =
      (padByte s.pads.shift2 s.dataBus,
        { s with dataBus := padByte s.pads.shift2 s.dataBus
                 pads := if s.pads.strobe then s.pads else { s.pads with shift2 := padShift s.pads.shift2 } }) := rfl

/-! ### The serial protocol of controller 1 -/

theorem padByte_bit (shift bus : Byte) : (padByte shift bus).getLsbD 0 = shift.getLsbD 0 := by
  simp [padByte, bitAt, bit]

theorem padShift_bit (shift : Byte) {k : Nat} (hk : k < 8) :
    (padShift shift).getLsbD k = if k + 1 < 8 then shift.getLsbD (k + 1) else true := by
  rw [padShift, BitVec.getLsbD_or, BitVec.getLsbD_ushiftRight, Nat.add_comm 1 k]
  split
  · have clear : ∀ k < 7, (0x80#8).getLsbD k = false := by decide
    rw [clear k (by omega), Bool.or_false]
  · rw [show k = 7 by omega]
    simp

/-- After `n` reads with the strobe low the register holds the snapshot's bits from bit `n` on, then ones. -/
structure Serving (snapshot : Byte) (n : Nat) (s : State) : Prop where
  strobe : s.pads.strobe = false
  bits : ∀ k < 8, s.pads.shift1.getLsbD k = if n + k < 8 then snapshot.getLsbD (n + k) else true

theorem Serving.read {snapshot : Byte} {n : Nat} {s : State} (h : Serving snapshot n s) :
    Serving snapshot (n + 1) (busRead s 0x4016#16).2 := by
  rw [busRead_pad1, h.strobe]
  refine ⟨h.strobe, fun k hk => ?_⟩
  show (padShift s.pads.shift1).getLsbD k = _
  rw [padShift_bit _ hk]
  by_cases h7 : k + 1 < 8
  · rw [if_pos h7, h.bits _ h7, show n + (k + 1) = n + 1 + k by omega]
  · rw [if_neg h7, if_neg (by omega)]

theorem Serving.reads {snapshot : Byte} {s : State} (h : Serving snapshot 0 s) (n : Nat) :
    Serving snapshot n (Nat.repeat (fun u => (busRead u 0x4016#16).2) n s) := by
  induction n with
  | zero => exact h
  | succ n ih => exact ih.read

/-- A 1 then a 0 to the strobe, from a low strobe, latch the snapshot. -/
theorem serving_after_strobe {s : State} (h : s.pads.strobe = false) :
    Serving s.pads.snapshot1 0 (busStore (busStore s 0x4016#16 1#8) 0x4016#16 0#8) := by
  rw [busStore_strobe, busStore_strobe, h]
  refine ⟨rfl, fun k hk => ?_⟩
  rw [Nat.zero_add, if_pos hk]
  rfl

/-- Settles O43: one access at a time, then `Serving` along the reads. -/
theorem controllerProtocol : Obligations.ControllerProtocol := by
  unfold Obligations.ControllerProtocol
  intro s v n
  refine ⟨busStore_strobe s v, ?one, ?two, fun h => ?serial⟩
  case one =>
    rw [busRead_pad1, padByte_eq, padShift_eq]
  case two =>
    rw [busRead_pad2, padByte_eq, padShift_eq]
  case serial =>
    have bits := ((serving_after_strobe h).reads n).bits 0 (by decide)
    intro ready after
    rw [busRead_pad1, padByte_bit]
    exact bits

/-! ### OAM DMA -/

/-- A page whose Bytes an OAM DMA copies without side effects: RAM, or the cartridge's memories. -/
def MemoryPage (v : Byte) : Prop := v.toNat < 0x20 ∨ 0x60 ≤ v.toNat

theorem pageAddr_toNat (v i : Byte) : (v ++ i : Word).toNat = 256 * v.toNat + i.toNat := wordOf_toNat v i

/-- The next Byte's address in the page. -/
theorem pageAddr_eq (v : Byte) {i : Nat} (hi : i < 256) :
    (v ++ 0#8 : Word) + BitVec.ofNat 16 i = v ++ BitVec.ofNat 8 i := by
  apply BitVec.eq_of_toNat_eq
  have hv := v.isLt
  rw [BitVec.toNat_add, pageAddr_toNat, pageAddr_toNat]
  simp only [BitVec.toNat_ofNat]
  omega

/-- Where memory answers, what is read does not hang on the bus latch or the PPU. -/
theorem busRead_answered {s : State} {a : Word}
    (h : a.toNat < 0x2000 ∨ 0x8000 ≤ a.toNat ∨ 0x6000 ≤ a.toNat ∧ a.toNat < 0x8000 ∧ prgRamReadable s = true)
    (b : Byte) (p : Ppu) : (busRead { s with dataBus := b, ppu := p } a).1 = (busRead s a).1 := by
  obtain ram | rom | ⟨h1, h2, readable⟩ := h
  · rw [busRead_ramRow ram, busRead_ramRow ram]
  · rw [busRead_mapperRow (by omega), busRead_mapperRow (by omega)]
    exact (mapperCpuRead_rom rom).trans (mapperCpuRead_rom (s := s) rom).symm
  · rw [busRead_prgRam (s := s) h1 h2 readable]
    exact busRead_prgRam h1 h2 readable

/-- A read in a memory page does not change what the page's addresses read as: where nothing answers, it leaves
the bus latch as it was. -/
theorem busRead_page_stable (t : State) {v : Byte} (hv : MemoryPage v) (i j : Byte) (p : Ppu) :
    (busRead { t with dataBus := (busRead t (v ++ i)).1, ppu := p } (v ++ j)).1 = (busRead t (v ++ j)).1 := by
  have hj := j.isLt
  by_cases closed : 0x60 ≤ v.toNat ∧ v.toNat < 0x80 ∧ prgRamReadable t = false
  · obtain ⟨h1, h2, h⟩ := closed
    have silent (u : State) (hu : prgRamReadable u = false) (k : Byte) : (busRead u (v ++ k)).1 = u.dataBus := by
      have hk := k.isLt
      have ek := pageAddr_toNat v k
      rw [busRead_mapperOpen (by omega) (.inr ⟨by omega, hu⟩)]
    rw [silent t h i, silent t h j]
    exact silent { t with ppu := p } h j
  · refine busRead_answered ?_ _ p
    rw [pageAddr_toNat]
    obtain hv | hv := hv
    · exact .inl (by omega)
    by_cases rom : 0x80 ≤ v.toNat
    · exact .inr (.inl (by omega))
    · refine .inr (.inr ⟨by omega, by omega, ?_⟩)
      rw [← Bool.not_eq_false]
      exact fun h => closed ⟨hv, by omega, h⟩

/-- The state of an OAM DMA of a memory page after `n` of its Bytes. -/
structure Copied (s : State) (v : Byte) (n : Nat) (t : State) : Prop where
  rest : t = { s with dataBus := t.dataBus, ppu := { s.ppu with oam := t.ppu.oam } }
  stable : ∀ j : Byte, (busRead t (v ++ j)).1 = (busRead s (v ++ j)).1
  copied : ∀ i < n, Cells.read t.ppu.oam ((s.ppu.oamAddr.toNat + i) % 256) =
    (busRead s (v ++ BitVec.ofNat 8 i)).1

theorem Copied.dmaByte {s t : State} {v : Byte} {n : Nat} (h : Copied s v n t) (hv : MemoryPage v)
    (hn : n < 256) : Copied s v (n + 1) (dmaByte (v ++ 0#8) t n) := by
  have memory : (v ++ BitVec.ofNat 8 n : Word).toNat < 0x2000 ∨ 0x4020 ≤ (v ++ BitVec.ofNat 8 n : Word).toNat := by
    have := (BitVec.ofNat 8 n).isLt
    rw [pageAddr_toNat]
    exact hv.imp (by omega) (by omega)
  have cursor : t.ppu.oamAddr = s.ppu.oamAddr := by rw [h.rest]
  have byte : Machine.dmaByte (v ++ 0#8) t n =
      { t with dataBus := (busRead t (v ++ BitVec.ofNat 8 n)).1
               ppu := { t.ppu with oam := Cells.write t.ppu.oam ((s.ppu.oamAddr.toNat + n) % 256)
                                     (busRead t (v ++ BitVec.ofNat 8 n)).1 } } := by
    rw [Machine.dmaByte, pageAddr_eq v hn, busRead_memory memory, ← cursor]
    rfl
  rw [byte]
  refine ⟨?rest, fun j => (busRead_page_stable t hv _ j _).trans (h.stable j), fun i hi => ?copied⟩
  case rest =>
    generalize (busRead t (v ++ BitVec.ofNat 8 n)).1 = b
    generalize Cells.write _ _ b = oam
    rw [h.rest]
  case copied =>
    rw [Cells.read_write]
    split
    · rw [show i = n by omega, h.stable]
    · exact h.copied i (by omega)

theorem copied_dmaCopy (s : State) {v : Byte} (hv : MemoryPage v) : Copied s v 256 (dmaCopy s v) := by
  have start : Copied s v 0 s := ⟨rfl, fun _ => rfl, fun i hi => absurd hi (Nat.not_lt_zero i)⟩
  have fold : ∀ n ≤ 256, Copied s v n ((List.range n).foldl (dmaByte (v ++ 0#8)) s) := by
    intro n hn
    induction n with
    | zero => exact start
    | succ n ih =>
      rw [List.range_succ, List.foldl_append]
      exact (ih (by omega)).dmaByte hv (by omega)
  exact fold 256 (le_refl _)

/-- The trigger of an OAM DMA. -/
theorem busStore_dma (s : State) (v : Byte) :
    busStore s 0x4014#16 v =
      (dmaCopy (s.setDataBus v) v).setPendingStall (s.pendingStall + dmaStall s.cpu.cycles) :=
  oamDma_eq (s.setDataBus v) v

theorem dmaStall_eq (n : Nat) : dmaStall n = if n % 2 = 1 then 514 else 513 := by
  unfold dmaStall
  split <;> omega

/-- Settles O42: the copying's effect from any page, and `Copied` Byte by Byte from a memory page. -/
theorem oamDmaResults : Obligations.OamDma := by
  unfold Obligations.OamDma
  intro s v
  have effect := dmaCopy_effect (s.setDataBus v) v
  have page := copied_dmaCopy (s.setDataBus v) (v := v)
  rw [busStore_dma]
  generalize dmaCopy (s.setDataBus v) v = u at effect page ⊢
  refine ⟨by rw [← dmaStall_eq]; rfl, ?cursor, effect.cpu, fun hv => ?page⟩
  case cursor =>
    show u.ppu.oamAddr = _
    rw [effect.ppu]
    rfl
  case page =>
    obtain ⟨rest, -, copied⟩ := page hv
    refine ⟨?_, copied⟩
    rw [rest]
    rfl

end Sys2Proof.Machine
end

section
/-! SUPPORT. The PPU's registers on the CPU bus (62_ppu.md R410 to R419), through every mirror. -/

namespace Sys2Proof.Machine

/-! ### One access of a register -/

/-- A write of a PPU register or a mirror of it. -/
theorem busStore_ppuReg {s : State} {a : Word} {k : Nat} (h : isPpuReg a k) (b : Byte) :
    busStore s a b = ppuRegWrite (s.setDataBus b) k b := by
  obtain ⟨h1, h2, hk⟩ := h
  rw [busStore_ppuRow b ⟨h1, h2⟩, hk]

/-- A read of a PPU register or a mirror of it. -/
theorem busRead_ppuReg {s : State} {a : Word} {k : Nat} (h : isPpuReg a k) :
    busRead s a = ((ppuRegRead s k).1, (ppuRegRead s k).2.setDataBus (ppuRegRead s k).1) := by
  obtain ⟨h1, h2, hk⟩ := h
  rw [busRead, busReadRow_ppu ⟨h1, h2⟩, hk]

/-! ### PPUCTRL, PPUSTATUS, OAMDATA -/

/-- The NMI latch after a write of PPUCTRL (60_exceptions.md R311, R313). -/
def nmiAfterCtrl (s : State) (b : Byte) : Bool :=
  if b.getLsbD 7 = false then false
  else if s.ppu.ctrl.getLsbD 7 = false ∧ s.ppu.nmiOccurred = true then true
  else s.cpu.nmiPending

/-- The write of PPUCTRL, whole (R410). -/
theorem writePpuCtrl_eq (s : State) (b : Byte) :
    writePpuCtrl s b =
      (s.setPpu { s.ppu with ctrl := b, t := putField s.ppu.t 10 (field b 0 2) }).setNmiPending
        (nmiAfterCtrl s b) := by
  unfold writePpuCtrl nmiAfterCtrl Ppu.nmiLine bit
  dsimp only
  generalize hu : s.setPpu _ = u
  have hcpu : u.cpu = s.cpu := by rw [← hu]; rfl
  have hocc : u.ppu.nmiOccurred = s.ppu.nmiOccurred := by rw [← hu]; rfl
  rw [← hcpu, hocc]
  cases b.getLsbD 7 with
  | false => rfl
  | true => cases s.ppu.ctrl.getLsbD 7 <;> cases s.ppu.nmiOccurred <;> rfl

/-- The nametable bits of `t`. -/
theorem putField_nametable (t : BitVec 15) (b : Byte) :
    putField t 10 (field b 0 2) = t.extractLsb' 12 3 ++ b.extractLsb' 0 2 ++ t.extractLsb' 0 10 :=
  putField_eq_append (a := 3) (lo := 10) t (field b 0 2)

/-- PPUSTATUS as read, in integers (R412). -/
theorem statusByte_eq (p : Ppu) (bus : Byte) :
    statusByte p bus = BitVec.ofNat 8 (128 * bitNat p.nmiOccurred + 64 * bitNat p.spriteZeroHit +
      32 * bitNat p.spriteOverflow + bus.toNat % 32) := by
  rw [statusByte, BitVec.ofNat_add, ← show _ = BitVec.ofNat 8 (bus.toNat % 32) from and_low bus (k := 5) (by decide)]
  cases p.nmiOccurred <;> cases p.spriteZeroHit <;> cases p.spriteOverflow <;> exact or_and_eq_add (by decide) bus

/-- OAMDATA read while the PPU is not rendering (R414). -/
theorem oamDataByte_idle {p : Ppu}
    (h : (p.mask.getLsbD 3 = false ∧ p.mask.getLsbD 4 = false) ∨ p.scanline < -1 ∨ 239 < p.scanline) :
    oamDataByte p = Cells.read p.oam p.oamAddr.toNat := by
  rw [oamDataByte, if_neg]
  rintro ⟨rendering, h1, h2⟩
  obtain ⟨h3, h4⟩ | h | h := h
  · simp [Ppu.rendering, bit, h3, h4, -BitVec.getLsbD_eq_getElem] at rendering
  · omega
  · omega

/-- Settles O44: register by register, each access by its row. -/
theorem ppuControlStatusAndOam : Obligations.PpuControlStatusAndOam := by
  unfold Obligations.PpuControlStatusAndOam
  intro s a b
  refine ⟨fun h => ?ctrl, fun h => ?mask, fun h => ?statusWrite, fun h => ?oamAddr, fun h => ?status,
    fun h => ?oamData, fun h idle => ?oamDataRead⟩
  case ctrl =>
    rw [busStore_ppuReg h, ppuRegWrite, writePpuCtrl_eq, putField_nametable]
    rfl
  case mask => rw [busStore_ppuReg h]; rfl
  case statusWrite => rw [busStore_ppuReg h]; rfl
  case oamAddr => rw [busStore_ppuReg h]; rfl
  case status =>
    rw [busRead_ppuReg h, ppuRegRead, statusByte_eq]
    rfl
  case oamData => rw [busStore_ppuReg h]; rfl
  case oamDataRead =>
    rw [busRead_ppuReg h, ppuRegRead, oamDataByte_idle idle]
    rfl

/-! ### PPUSCROLL and PPUADDR -/

/-- The first write of PPUSCROLL: coarse X and fine X (R416). -/
theorem writePpuScroll_first {p : Ppu} (h : p.w = false) (b : Byte) :
    writePpuScroll p b =
      { p with t := p.t.extractLsb' 5 10 ++ b.extractLsb' 3 5, x := b.extractLsb' 0 3, w := true } := by
  have coarseX : putField p.t 0 (field b 3 5) = p.t.extractLsb' 5 10 ++ b.extractLsb' 3 5 :=
    putField_zero_eq_append (a := 10) p.t (field b 3 5)
  rw [writePpuScroll, h, if_neg Bool.false_ne_true, coarseX]
  rfl

/-- Fine Y and coarse Y written to `t`. -/
theorem putField_fineY_coarseY (t : BitVec 15) (b : Byte) :
    putField (putField t 12 (field b 0 3)) 5 (field b 3 5) =
      b.extractLsb' 0 3 ++ t.extractLsb' 10 2 ++ b.extractLsb' 3 5 ++ t.extractLsb' 0 5 := by
  refine putField_bits _ 5 _ fun i hi => ?_
  rw [getLsbD_putField]
  simp only [BitVec.getLsbD_append, BitVec.getLsbD_extractLsb', field]
  interval_cases i <;> simp

/-- The second write of PPUSCROLL: fine Y and coarse Y (R416). -/
theorem writePpuScroll_second {p : Ppu} (h : p.w = true) (b : Byte) :
    writePpuScroll p b =
      { p with t := b.extractLsb' 0 3 ++ p.t.extractLsb' 10 2 ++ b.extractLsb' 3 5 ++ p.t.extractLsb' 0 5
               w := false } := by
  rw [writePpuScroll, h, if_pos rfl, putField_fineY_coarseY]

/-- The six bits of the address's high byte, the fifteenth bit cleared. -/
theorem putField_addrHigh (t : BitVec 15) (b : Byte) :
    putField (putField t 8 (field b 0 6)) 14 0#1 = 0#1 ++ b.extractLsb' 0 6 ++ t.extractLsb' 0 8 := by
  refine putField_bits _ 14 _ fun i hi => ?_
  rw [getLsbD_putField]
  simp only [BitVec.getLsbD_append, BitVec.getLsbD_extractLsb', field]
  interval_cases i <;> simp

/-- The first write of PPUADDR: the high byte of `t` (R417). -/
theorem writePpuAddr_first {p : Ppu} (h : p.w = false) (b : Byte) :
    writePpuAddr p b = { p with t := 0#1 ++ b.extractLsb' 0 6 ++ p.t.extractLsb' 0 8, w := true } := by
  rw [writePpuAddr, h, if_neg Bool.false_ne_true, putField_addrHigh]

/-- The second write of PPUADDR: the low byte of `t`, and `t` to `v` (R417). -/
theorem writePpuAddr_second {p : Ppu} (h : p.w = true) (b : Byte) :
    writePpuAddr p b = { p with t := p.t.extractLsb' 8 7 ++ b, v := p.t.extractLsb' 8 7 ++ b, w := false } := by
  have low : putField p.t 0 b = p.t.extractLsb' 8 7 ++ b := putField_zero_eq_append (a := 7) p.t b
  rw [writePpuAddr, h, if_pos rfl, low]

/-- Settles O45: each of the four writes by its lemma. -/
theorem ppuScrollAndAddress : Obligations.PpuScrollAndAddress := by
  unfold Obligations.PpuScrollAndAddress
  intro s a b t
  refine ⟨fun h hw => ?scroll1, fun h hw => ?scroll2, fun h hw => ?addr1, fun h hw => ?addr2⟩
  case scroll1 => rw [busStore_ppuReg h, ppuRegWrite, State.setDataBus_ppu, writePpuScroll_first hw]; rfl
  case scroll2 => rw [busStore_ppuReg h, ppuRegWrite, State.setDataBus_ppu, writePpuScroll_second hw]; rfl
  case addr1 => rw [busStore_ppuReg h, ppuRegWrite, State.setDataBus_ppu, writePpuAddr_first hw]; rfl
  case addr2 => rw [busStore_ppuReg h, ppuRegWrite, State.setDataBus_ppu, writePpuAddr_second hw]; rfl

/-! ### PPUDATA -/

/-- A PPU read leaves the PPU's own registers. -/
theorem ppuRead_ppu (s : State) (a : VAddr) : (ppuRead s a).2.ppu = s.ppu := by
  rw [ppuRead_state]
  rfl

/-- `v` after a PPUDATA access. -/
def nextV (p : Ppu) : BitVec 15 := p.v + (if p.ctrl.getLsbD 2 then 32#15 else 1#15)

/-- The end of a PPUDATA read: the buffer, and the increment of `v`. -/
theorem setPpu_buffer_bumpV (s : State) (a : VAddr) (b : Byte) :
    (ppuRead s a).2.setPpu { (ppuRead s a).2.ppu with readBuffer := b }.bumpV =
      { (ppuRead s a).2 with ppu := { (ppuRead s a).2.ppu with readBuffer := b, v := nextV s.ppu } } := by
  have h := ppuRead_ppu s a
  generalize (ppuRead s a).2 = t at h ⊢
  rw [← h]
  rfl

/-- A PPUDATA read below the palette (R418). -/
theorem readPpuData_buffered {s : State} (h : (vramAddr s).toNat < 0x3F00) :
    let r := ppuRead s (vramAddr s)
    readPpuData s = (s.ppu.readBuffer, { r.2 with ppu := { r.2.ppu with readBuffer := r.1, v := nextV s.ppu } }) := by
  intro r
  rw [← setPpu_buffer_bumpV, readPpuData, if_pos (c := (s.ppu.v.setWidth 14).toNat < 0x3F00) h]
  rfl

/-- A PPU write leaves `v` and PPUCTRL. -/
theorem ppuWrite_v_ctrl (s : State) (a : VAddr) (b : Byte) :
    (ppuWrite s a b).ppu.v = s.ppu.v ∧ (ppuWrite s a b).ppu.ctrl = s.ppu.ctrl := by
  unfold ppuWrite
  split
  · unfold chrWrite
    split <;> exact ⟨rfl, rfl⟩
  split
  · unfold ntWrite
    dsimp only
    split <;> exact ⟨rfl, rfl⟩
  · exact ⟨rfl, rfl⟩

/-- The palette's read: six bits under the two high bits of the bus latch. -/
theorem paletteByte_eq (bus : Byte) (e : BitVec 6) :
    (bus &&& 0xC0#8) ||| e.setWidth 8 = BitVec.ofNat 8 (bus.toNat / 64 * 64 + e.toNat) := by
  have disjoint : e.setWidth 8 &&& 0xC0#8 = 0#8 := by revert e; decide
  rw [BitVec.or_comm, or_and_eq_add disjoint, BitVec.add_comm, BitVec.ofNat_add, BitVec.ofNat_toNat]
  exact congrArg (· + BitVec.setWidth 8 e) (and_high bus (k := 6) (by decide))

/-- A PPUDATA read of the palette, which buffers the byte 0x1000 below (R418). -/
theorem readPpuData_palette {s : State} (h : 0x3F00 ≤ (vramAddr s).toNat) :
    let r := ppuRead s (vramAddr s - 0x1000#14)
    readPpuData s =
      (BitVec.ofNat 8 (s.dataBus.toNat / 64 * 64 + (paletteRead s.ppu (vramAddr s)).toNat),
        { r.2 with ppu := { r.2.ppu with readBuffer := r.1, v := nextV s.ppu } }) := by
  dsimp only
  rw [← setPpu_buffer_bumpV, ← paletteByte_eq, readPpuData,
    if_neg (c := (s.ppu.v.setWidth 14).toNat < 0x3F00) (Nat.not_lt.mpr h)]
  rfl

/-- A PPUDATA write (R419). -/
theorem writePpuData_eq (s : State) (b : Byte) :
    let t := ppuWrite s (vramAddr s) b
    writePpuData s b = { t with ppu := { t.ppu with v := nextV s.ppu } } := by
  obtain ⟨hv, hc⟩ := ppuWrite_v_ctrl s (vramAddr s) b
  rw [nextV, ← hv, ← hc]
  rfl

/-- Settles O46: the two kinds of read and the write, each whole. -/
theorem ppuDataAccess : Obligations.PpuDataAccess := by
  unfold Obligations.PpuDataAccess
  intro s a b h
  dsimp only
  refine ⟨fun hp => ?buffered, fun hp => ?palette, ?write⟩
  case buffered => rw [busRead_ppuReg h, ppuRegRead, readPpuData_buffered hp]; rfl
  case palette =>
    have below : BitVec.ofNat 14 ((vramAddr s).toNat - 0x1000) = vramAddr s - 0x1000#14 := by bv_omega
    rw [below, busRead_ppuReg h, ppuRegRead, readPpuData_palette hp]
    rfl
  case write => rw [busStore_ppuReg h, ppuRegWrite, writePpuData_eq]; rfl

end Sys2Proof.Machine
end

section
/-! SUPPORT. The APU's registers, its frame sequencer and the DMC's memory reader (63_apu.md). -/

namespace Sys2Proof.Machine

/-! ### The DMC's memory reader -/

theorem Dmc.wantsByte_iff (d : Dmc) : d.wantsByte = true ↔ d.bufferFull = false ∧ d.bytesRemaining ≠ 0#12 := by
  simp only [Dmc.wantsByte, Bool.and_eq_true, Bool.not_eq_true', decide_eq_true_eq]

/-- Settles O54: `dmcReader_eq`, and the DMC after a fetch by `Dmc.fetched_eq`. -/
theorem dmcFetch : Obligations.DmcFetch := by
  unfold Obligations.DmcFetch
  intro s h
  rw [dmcReader_eq h, Dmc.fetched_eq]
  refine ⟨fun idle => if_neg ?_, fun empty left => if_pos ?_⟩
  · rw [Dmc.wantsByte_iff]
    rintro ⟨empty, left⟩
    obtain full | done := idle
    · rw [full] at empty; cases empty
    · exact left done
  · exact (Dmc.wantsByte_iff _).mpr ⟨empty, left⟩

/-! ### One APU step -/

/-- The memory reader touches the DMC alone of the APU. -/
theorem dmcReader_apu {s : State} (h : s.apu.InRange) :
    (dmcReader s).apu = { s.apu with dmc := (dmcReader s).apu.dmc } := by
  rw [dmcReader_eq h]
  split <;> rfl

/-- What the frame counter's clock does to the length counters and to the triangle's linear counter (R501). -/
theorem Apu.clockFrame_counters (a : Apu) :
    let e := frameEvent a.frame.fiveStep (a.frame.fcCycle + 1)
    let counted (length : Byte) (halt : Bool) : Byte := if e.half then clockLength length halt else length
    a.clockFrame.pulse1.length = counted a.pulse1.length a.pulse1.lengthHalt ∧
      a.clockFrame.pulse2.length = counted a.pulse2.length a.pulse2.lengthHalt ∧
      a.clockFrame.triangle.length = counted a.triangle.length a.triangle.control ∧
      a.clockFrame.noise.length = counted a.noise.length a.noise.lengthHalt ∧
      a.clockFrame.triangle.linear = (if e.quarter then a.triangle.quarter.linear else a.triangle.linear) ∧
      a.clockFrame.triangle.linearReload =
        (if e.quarter then a.triangle.quarter.linearReload else a.triangle.linearReload) := by
  unfold Apu.clockFrame
  dsimp only
  cases (frameEvent a.frame.fiveStep (a.frame.fcCycle + 1)).quarter <;>
    cases (frameEvent a.frame.fiveStep (a.frame.fcCycle + 1)).half <;> exact ⟨rfl, rfl, rfl, rfl, rfl, rfl⟩

theorem Pulse.clockTimer_length (p : Pulse) : p.clockTimer.length = p.length := by
  unfold Pulse.clockTimer
  split <;> rfl

theorem Triangle.clockTimer_counters (t : Triangle) :
    t.clockTimer.length = t.length ∧ t.clockTimer.linear = t.linear ∧
      t.clockTimer.linearReload = t.linearReload := by
  unfold Triangle.clockTimer
  split <;> exact ⟨rfl, rfl, rfl⟩

theorem Noise.clockTimer_length (n : Noise) : n.clockTimer.length = n.length := by
  unfold Noise.clockTimer
  split <;> rfl

/-- The timers, the mixer and the resampler leave the frame counter and every counter it clocks. -/
theorem Apu.timers_counters (a : Apu) :
    let t := a.clockTimers.resample
    t.frame = a.frame ∧ t.pulse1.length = a.pulse1.length ∧ t.pulse2.length = a.pulse2.length ∧
      t.triangle.length = a.triangle.length ∧ t.noise.length = a.noise.length ∧
      t.triangle.linear = a.triangle.linear ∧ t.triangle.linearReload = a.triangle.linearReload := by
  rw [Apu.resample_kept, Apu.clockTimers]
  obtain ⟨length, linear, reload⟩ := a.triangle.clockTimer_counters
  refine ⟨rfl, ?pulse1, ?pulse2, length, a.noise.clockTimer_length, linear, reload⟩
  case pulse1 =>
    cases a.cycleParity
    · rfl
    · exact a.pulse1.clockTimer_length
  case pulse2 =>
    cases a.cycleParity
    · rfl
    · exact a.pulse2.clockTimer_length

/-- A length counter is counted down on the half frames alone (R501, R516). -/
theorem counted_eq (five : Bool) (n : Nat) (length : Byte) (halt : Bool) :
    (if (frameEvent five n).half then clockLength length halt else length) =
      if (if five then n ∈ [7457, 22371] else n ∈ [14913, 29828]) ∧ halt = false ∧ length ≠ 0#8 then length - 1#8
      else length := by
  rw [frameEvent_half, clockLength]
  simp only [decide_eq_true_eq, ite_and]

/-- The linear counter is clocked on the quarter frames alone (R501, R524). -/
theorem linear_eq (five : Bool) (n : Nat) (r : Triangle) :
    (if (frameEvent five n).quarter then r.quarter.linear else r.linear) =
      if (if five then n ∈ [7457, 14913, 22371, 37281] else n ∈ [7457, 14913, 22371, 29828]) then
        if r.linearReload then r.linearReloadValue else if r.linear ≠ 0#7 then r.linear - 1#7 else r.linear
      else r.linear := by
  rw [frameEvent_quarter, Triangle.quarter]
  simp only [decide_eq_true_eq]

theorem linearReload_eq (five : Bool) (n : Nat) (r : Triangle) :
    (if (frameEvent five n).quarter then r.quarter.linearReload else r.linearReload) =
      if (if five then n ∈ [7457, 14913, 22371, 37281] else n ∈ [7457, 14913, 22371, 29828]) ∧ r.control = false then
        false
      else r.linearReload := by
  rw [frameEvent_quarter, Triangle.quarter]
  simp only [decide_eq_true_eq, ite_and]
  cases r.control <;> simp

/-- The APU after one step: the reader's DMC, then the frame counter, then the timers. -/
theorem apuStep_apu {s : State} (h : s.apu.InRange) :
    ∃ d, (apuStep s).apu = (Apu.clockFrame { s.apu with dmc := d }).clockTimers.resample := by
  refine ⟨(dmcReader s).apu.dmc, ?_⟩
  rw [← dmcReader_apu h]
  exact State.setApu_apu _ _

/-- Settles O51: the reader leaves the counters, the frame counter clocks them, the timers leave them. -/
theorem frameSequencer : Obligations.FrameSequencer := by
  unfold Obligations.FrameSequencer
  intro s h
  obtain ⟨d, step⟩ := apuStep_apu h
  obtain ⟨pulse1, pulse2, triangle, noise, linear, reload⟩ := Apu.clockFrame_counters { s.apu with dmc := d }
  have frame := Apu.clockFrame_frame { s.apu with dmc := d }
  obtain ⟨frame', pulse1', pulse2', triangle', noise', linear', reload'⟩ :=
    Apu.timers_counters (Apu.clockFrame { s.apu with dmc := d })
  dsimp only
  rw [step, frame', pulse1', pulse2', triangle', noise', linear', reload']
  exact ⟨frame, pulse1.trans (counted_eq _ _ _ _), pulse2.trans (counted_eq _ _ _ _),
    triangle.trans (counted_eq _ _ _ _), noise.trans (counted_eq _ _ _ _), linear.trans (linear_eq _ _ _),
    reload.trans (linearReload_eq _ _ _)⟩

/-! ### 0x4015 and 0x4017 -/

/-- Eight bits at their places, in integers. -/
theorem bits_eq_ofNat (b7 b6 b5 b4 b3 b2 b1 b0 : Bool) :
    bitAt 8 b7 7 ||| bitAt 8 b6 6 ||| bitAt 8 b5 5 ||| bitAt 8 b4 4 ||| bitAt 8 b3 3 ||| bitAt 8 b2 2 |||
        bitAt 8 b1 1 ||| bitAt 8 b0 0 =
      BitVec.ofNat 8 (128 * bitNat b7 + 64 * bitNat b6 + 32 * bitNat b5 + 16 * bitNat b4 + 8 * bitNat b3 +
        4 * bitNat b2 + 2 * bitNat b1 + bitNat b0) := by
  revert b7 b6 b5 b4 b3 b2 b1 b0
  decide

theorem bne_zero {n : Nat} (v : BitVec n) : (v != 0#n) = decide (v ≠ 0#n) := by
  rw [Bool.eq_iff_iff]
  simp

/-- 0x4015 as read, in integers (R551). -/
theorem statusByte_apu_eq (a : Apu) (bus : Byte) :
    a.statusByte bus =
      BitVec.ofNat 8 (128 * bitNat a.dmc.irqFlag + 64 * bitNat a.frame.frameIrq + 32 * bitNat (bus.getLsbD 5) +
        16 * bitNat (decide (a.dmc.bytesRemaining ≠ 0#12)) + 8 * bitNat (decide (a.noise.length ≠ 0#8)) +
        4 * bitNat (decide (a.triangle.length ≠ 0#8)) + 2 * bitNat (decide (a.pulse2.length ≠ 0#8)) +
        bitNat (decide (a.pulse1.length ≠ 0#8))) := by
  have bit5 : bus &&& 0x20#8 = bitAt 8 (bus.getLsbD 5) 5 := by
    rw [show 0x20#8 = BitVec.twoPow 8 5 from rfl, BitVec.and_twoPow]
    cases bus.getLsbD 5 <;> rfl
  rw [← bits_eq_ofNat, Apu.statusByte, bit5]
  simp only [bne_zero]

/-- The DMC after its enable bit is written (R546, R550). -/
theorem Dmc.enable_eq (d : Dmc) (on : Bool) :
    d.enable on =
      { d with
        irqFlag := false
        curAddr := if on = true ∧ d.bytesRemaining = 0#12 then d.sampleAddr else d.curAddr
        bytesRemaining := if on = false then 0#12
                          else if on = true ∧ d.bytesRemaining = 0#12 then d.sampleLen else d.bytesRemaining } := by
  unfold Dmc.enable
  cases on with
  | false => simp
  | true => by_cases h : d.bytesRemaining = 0#12 <;> simp [h]

/-- A write of 0x4017 (R503). -/
theorem Apu.writeFrame_eq (a : Apu) (b : Byte) :
    let frame : FrameCounter :=
      { fiveStep := b.getLsbD 7, irqInhibit := b.getLsbD 6, frameIrq := a.frame.frameIrq && !b.getLsbD 6,
        fcCycle := 0 }
    a.writeFrame b = { (if b.getLsbD 7 then a.quarter.half else a) with frame := frame } := by
  unfold Apu.writeFrame bit
  dsimp only
  cases b.getLsbD 7 <;> rfl

/-- Settles O53: the three accesses, the DMC's enable bit by its lemma. -/
theorem apuStatus : Obligations.ApuStatus := by
  unfold Obligations.ApuStatus
  intro s b
  refine ⟨?read, ?enable, ?frame⟩
  case read =>
    rw [← statusByte_apu_eq]
    rfl
  case enable =>
    have row : busStore s 0x4015#16 b = (s.setDataBus b).setApu (s.apu.writeEnable b) := rfl
    rw [row, Apu.writeEnable, Dmc.enable_eq]
    rfl
  case frame =>
    have row : busStore s 0x4017#16 b = (s.setDataBus b).setApu (s.apu.writeFrame b) := rfl
    rw [row, Apu.writeFrame_eq]
    cases hb : b.getLsbD 7 with
    | false => exact ⟨rfl, rfl, fun _ => rfl, fun h => absurd h (by decide)⟩
    | true => exact ⟨rfl, rfl, fun h => absurd h (by decide), fun _ => rfl⟩

end Sys2Proof.Machine
end

section
/-! SUPPORT. The registers of the APU's channels, 0x4000 to 0x4013, in integers (63_apu.md R507, R510 to R543). -/

namespace Sys2Proof.Machine

/-! ### Fields in integers -/

theorem append_toNat {a b : Nat} (x : BitVec a) (y : BitVec b) : (x ++ y).toNat = x.toNat * 2 ^ b + y.toNat := by
  rw [BitVec.toNat_append, ← Nat.shiftLeft_add_eq_or_of_lt y.isLt, Nat.shiftLeft_eq]

/-- The low eight bits of a timer period written. -/
theorem putField_periodLow (period : BitVec 11) (b : Byte) :
    putField period 0 b = BitVec.ofNat 11 (period.toNat / 256 * 256 + b.toNat) := by
  have hp := period.isLt
  have hb := b.isLt
  apply BitVec.eq_of_toNat_eq
  rw [show putField period 0 b = period.extractLsb' 8 3 ++ b from putField_zero_eq_append (a := 3) period b,
    append_toNat, BitVec.extractLsb'_toNat, BitVec.toNat_ofNat, Nat.shiftRight_eq_div_pow]
  omega

/-- The high three bits of a timer period written. -/
theorem putField_periodHigh (period : BitVec 11) (b : Byte) :
    putField period 8 (field b 0 3) = BitVec.ofNat 11 (b.toNat % 8 * 256 + period.toNat % 256) := by
  apply BitVec.eq_of_toNat_eq
  rw [show putField period 8 (field b 0 3) = period.extractLsb' 11 0 ++ field b 0 3 ++ period.extractLsb' 0 8 from
      putField_eq_append (a := 0) (lo := 8) period (field b 0 3),
    append_toNat, append_toNat, field_eq_ofNat, BitVec.extractLsb'_toNat, BitVec.extractLsb'_toNat, BitVec.toNat_ofNat,
    BitVec.toNat_ofNat, Nat.shiftRight_zero]
  omega

/-- `LENGTH` as integers (R507). -/
def lengths : List Nat :=
  [10, 254, 20, 2, 40, 4, 80, 6, 160, 8, 60, 10, 14, 12, 26, 14,
   12, 16, 24, 18, 48, 20, 96, 22, 192, 24, 72, 26, 16, 28, 32, 30]

/-- The entry of `LENGTH` a write loads, in integers. -/
theorem lengthLoad_eq (b : Byte) : lengthLoad b = BitVec.ofNat 8 (lengths.getD (b.toNat / 8) 0) := by
  have hb := b.isLt
  have index : (field b 3 5).toNat = b.toNat / 8 := by
    rw [field_eq_ofNat, BitVec.toNat_ofNat]
    omega
  have table : lengthTable = lengths.map (BitVec.ofNat 8) := rfl
  rw [lengthLoad, index, table]
  exact List.getD_map _ _ _

/-- The length counter after a write that loads it, while the channel is enabled. -/
def loadedLength (b : Byte) (enabled : Bool) (length : Byte) : Byte :=
  if enabled then BitVec.ofNat 8 (lengths.getD (b.toNat / 8) 0) else length

/-! ### The channels -/

/-- The four registers of a pulse channel (R510 to R513). -/
theorem Pulse.write_eq (p : Pulse) (b : Byte) :
    [0, 1, 2, 3].map (p.write · b) =
      [{ p with duty := BitVec.ofNat 2 (b.toNat / 2 ^ 6 % 2 ^ 2), lengthHalt := b.getLsbD 5,
                constantVolume := b.getLsbD 4, volume := BitVec.ofNat 4 (b.toNat / 2 ^ 0 % 2 ^ 4) },
       { p with sweepEnabled := b.getLsbD 7, sweepPeriod := BitVec.ofNat 3 (b.toNat / 2 ^ 4 % 2 ^ 3),
                sweepNegate := b.getLsbD 3, sweepShift := BitVec.ofNat 3 (b.toNat / 2 ^ 0 % 2 ^ 3),
                sweepReload := true },
       { p with timerPeriod := BitVec.ofNat 11 (p.timerPeriod.toNat / 256 * 256 + b.toNat) },
       { p with timerPeriod := BitVec.ofNat 11 (b.toNat % 8 * 256 + p.timerPeriod.toNat % 256)
                length := loadedLength b p.enabled p.length
                dutyStep := 0#3
                env := { p.env with start := true } }] := by
  rw [← putField_periodLow, ← putField_periodHigh, loadedLength, ← lengthLoad_eq]
  simp only [← field_eq_ofNat]
  rfl

/-- The four registers of the triangle (R520 to R522). -/
theorem Triangle.write_eq (t : Triangle) (b : Byte) :
    [0, 1, 2, 3].map (t.write · b) =
      [{ t with control := b.getLsbD 7, linearReloadValue := BitVec.ofNat 7 (b.toNat / 2 ^ 0 % 2 ^ 7) },
       t,
       { t with timerPeriod := BitVec.ofNat 11 (t.timerPeriod.toNat / 256 * 256 + b.toNat) },
       { t with timerPeriod := BitVec.ofNat 11 (b.toNat % 8 * 256 + t.timerPeriod.toNat % 256)
                length := loadedLength b t.enabled t.length
                linearReload := true }] := by
  rw [← putField_periodLow, ← putField_periodHigh, loadedLength, ← lengthLoad_eq, ← field_eq_ofNat]
  rfl

/-- The four registers of the noise channel (R530 to R532). -/
theorem Noise.write_eq (n : Noise) (b : Byte) :
    [0, 1, 2, 3].map (n.write · b) =
      [{ n with lengthHalt := b.getLsbD 5, constantVolume := b.getLsbD 4,
                volume := BitVec.ofNat 4 (b.toNat / 2 ^ 0 % 2 ^ 4) },
       n,
       { n with mode := b.getLsbD 7, periodIndex := BitVec.ofNat 4 (b.toNat / 2 ^ 0 % 2 ^ 4) },
       { n with length := loadedLength b n.enabled n.length, env := { n.env with start := true } }] := by
  rw [loadedLength, ← lengthLoad_eq, ← field_eq_ofNat]
  rfl

/-- The sample address in integers (R542). -/
theorem sampleAddr_eq (b : Byte) : 0xC000#16 + (b.setWidth 16 <<< 6) = BitVec.ofNat 16 (0xC000 + 64 * b.toNat) := by
  bv_omega

/-- The sample length in integers (R543). -/
theorem sampleLen_eq (b : Byte) : (b.setWidth 12 <<< 4) + 1#12 = BitVec.ofNat 12 (16 * b.toNat + 1) := by
  bv_omega

/-- The four registers of the DMC (R540 to R543). -/
theorem Dmc.write_eq (d : Dmc) (b : Byte) :
    [0, 1, 2, 3].map (d.write · b) =
      [{ d with irqEnable := b.getLsbD 7, loop := b.getLsbD 6, rateIndex := BitVec.ofNat 4 (b.toNat / 2 ^ 0 % 2 ^ 4),
                irqFlag := d.irqFlag && b.getLsbD 7 },
       { d with output := BitVec.ofNat 7 (b.toNat / 2 ^ 0 % 2 ^ 7) },
       { d with sampleAddr := BitVec.ofNat 16 (0xC000 + 64 * b.toNat) },
       { d with sampleLen := BitVec.ofNat 12 (16 * b.toNat + 1) }] := by
  rw [← sampleAddr_eq, ← sampleLen_eq]
  simp only [← field_eq_ofNat]
  rfl

/-- Settles O52: the twenty addresses are four registers of each of five channels. -/
theorem channelRegisters : Obligations.ChannelRegisters := by
  unfold Obligations.ChannelRegisters
  intro s b
  refine ⟨?pulse1, ?pulse2, ?triangle, ?noise, ?dmc⟩
  case pulse1 =>
    exact congrArg (List.map fun p => { s with dataBus := b, apu := { s.apu with pulse1 := p } })
      (Pulse.write_eq s.apu.pulse1 b)
  case pulse2 =>
    exact congrArg (List.map fun p => { s with dataBus := b, apu := { s.apu with pulse2 := p } })
      (Pulse.write_eq s.apu.pulse2 b)
  case triangle =>
    exact congrArg (List.map fun r => { s with dataBus := b, apu := { s.apu with triangle := r } })
      (Triangle.write_eq s.apu.triangle b)
  case noise =>
    exact congrArg (List.map fun n => { s with dataBus := b, apu := { s.apu with noise := n } })
      (Noise.write_eq s.apu.noise b)
  case dmc =>
    exact congrArg (List.map fun d => { s with dataBus := b, apu := { s.apu with dmc := d } })
      (Dmc.write_eq s.apu.dmc b)

end Sys2Proof.Machine
end

section
/-! SUPPORT. The mappers' registers, windows and mirroring (64_mappers.md R601 to R664). -/

namespace Sys2Proof.Machine

/-! ### Register writes -/

/-- A write to 0x8000..0xFFFF reaches the mapper's registers alone. -/
theorem busStore_romRow {s : State} {a : Word} (v : Byte) (h : 0x8000 ≤ a.toNat) :
    busStore s a v = { s with dataBus := v, mapper := mapperRegWrite s.mapper a v } := by
  rw [busStore_mapperRow v (by omega), mapperCpuWrite, if_neg (by omega), if_neg (by omega)]
  rfl

/-- MMC1's registers after the fifth write of a value (R640). -/
def mmc1Load (m : Mmc1) (a : Word) (v : BitVec 5) : Mmc1 :=
  let m := { m with shift := 0#5, writeCount := 0 }
  if a.toNat < 0xA000 then { m with control := v }
  else if a.toNat < 0xC000 then { m with chrBank0 := v }
  else if a.toNat < 0xE000 then { m with chrBank1 := v }
  else { m with prgBank := v }

/-- The bit a serial write shifts in. -/
theorem bitAt_bit_zero (b : Byte) (k : Nat) :
    bitAt 5 (bit b 0) k = (b.extractLsb' 0 1).setWidth 5 <<< k := by
  have low : BitVec.ofBool (bit b 0) = b.extractLsb' 0 1 := by
    apply BitVec.eq_of_getLsbD_eq
    intro i hi
    rw [show i = 0 by omega]
    simp [bit]
  rw [bitAt, low]

/-- The serial port (R640). -/
theorem mmc1Write_eq {m : Mmc1} {a : Word} (b : Byte) (ha : 0x8000 ≤ a.toNat) (hc : m.writeCount ≤ 4) :
    mmc1Write m a b =
      let v := m.shift ||| ((b.extractLsb' 0 1).setWidth 5 <<< m.writeCount)
      if b.getLsbD 7 = true then { m with shift := 0#5, writeCount := 0, control := m.control ||| 0x0C#5 }
      else if m.writeCount < 4 then { m with shift := v, writeCount := m.writeCount + 1 }
      else mmc1Load m a v := by
  have hlt := a.isLt
  rw [mmc1Write, bitAt_bit_zero]
  dsimp only
  refine if_congr Iff.rfl rfl ?_
  by_cases h4 : m.writeCount < 4
  · rw [if_neg (by omega), if_pos h4]
  rw [if_pos (by omega), if_neg h4, mmc1Load]
  have window : (field a 13 2).toNat = a.toNat / 0x2000 - 4 := by
    rw [field_eq_ofNat, BitVec.toNat_ofNat]
    omega
  rw [window]
  split_ifs with hA hC hE
  · rw [show a.toNat / 0x2000 - 4 = 0 by omega]; rfl
  · rw [show a.toNat / 0x2000 - 4 = 1 by omega]; rfl
  · rw [show a.toNat / 0x2000 - 4 = 2 by omega]; rfl
  · rw [show a.toNat / 0x2000 - 4 = 3 by omega]; rfl

/-- Bit `k` of a value, as the Byte a program writes to the serial port. -/
def serialByte (v : BitVec 5) (k : Nat) : Byte := BitVec.ofNat 8 ((v >>> k) &&& 1#5).toNat

theorem serialByte_bits (v : BitVec 5) (k : Nat) :
    (serialByte v k).getLsbD 7 = false ∧ ((serialByte v k).extractLsb' 0 1).setWidth 5 = (v >>> k) &&& 1#5 := by
  rw [serialByte]
  generalize v >>> k = w
  revert w
  decide

/-- The serial port during a load of `v`: the first `k` of its bits are in, from bit 0 on. -/
def Loading (m : Mmc1) (v : BitVec 5) (k : Nat) (s : State) : Prop :=
  s.mapper = .mmc1 { m with shift := v &&& BitVec.ofNat 5 (2 ^ k - 1), writeCount := k }

/-- The next bit joins the ones already in. -/
theorem serial_bits_succ (v : BitVec 5) {k : Nat} (hk : k < 5) :
    v &&& BitVec.ofNat 5 (2 ^ k - 1) ||| ((v >>> k) &&& 1#5) <<< k = v &&& BitVec.ofNat 5 (2 ^ (k + 1) - 1) := by
  interval_cases k <;> revert v <;> decide

theorem Loading.write {m : Mmc1} {v : BitVec 5} {k : Nat} {s : State} {a : Word} (h : Loading m v k s) (hk : k < 4)
    (ha : 0x8000 ≤ a.toNat) : Loading m v (k + 1) (busStore s a (serialByte v k)) := by
  obtain ⟨bit7, bit0⟩ := serialByte_bits v k
  rw [Loading, busStore_romRow _ ha, h, mapperRegWrite, mmc1Write_eq _ ha (Nat.le_of_lt hk)]
  dsimp only
  rw [bit7, bit0, if_neg Bool.false_ne_true, if_pos hk, serial_bits_succ v (by omega)]

/-- The fifth write loads the register its address selects. -/
theorem Loading.last {m : Mmc1} {v : BitVec 5} {s : State} {a : Word} (h : Loading m v 4 s) (ha : 0x8000 ≤ a.toNat) :
    (busStore s a (serialByte v 4)).mapper = .mmc1 (mmc1Load m a v) := by
  obtain ⟨bit7, bit0⟩ := serialByte_bits v 4
  have whole : v &&& BitVec.ofNat 5 (2 ^ 5 - 1) = v := BitVec.and_allOnes
  rw [busStore_romRow _ ha, h, mapperRegWrite, mmc1Write_eq _ ha (le_refl 4)]
  dsimp only
  rw [bit7, bit0, if_neg Bool.false_ne_true, if_neg (Nat.lt_irrefl 4), serial_bits_succ v (by decide), whole]
  rfl

/-- Five writes load a register with their bits, the first into bit 0 (R640). -/
theorem mmc1_five_writes {s : State} {m : Mmc1} {a : Word} (v : BitVec 5) (ha : 0x8000 ≤ a.toNat)
    (hm : s.mapper = .mmc1 m) (hs : m.shift = 0#5) (hc : m.writeCount = 0) :
    ((List.range 5).foldl (fun u k => busStore u a (serialByte v k)) s).mapper = .mmc1 (mmc1Load m a v) := by
  have start : Loading m v 0 s := by
    obtain ⟨shift, count, control, chr0, chr1, prg⟩ := m
    cases hs
    cases hc
    rw [Loading, hm]
    congr 2
    exact (BitVec.and_zero).symm
  exact ((((start.write (by decide) ha).write (by decide) ha).write (by decide) ha).write (by decide) ha).last ha

/-- MMC3's register select in integers. -/
theorem mmc3Select_toNat (a : Word) : (a &&& 0xE001#16).toNat = a.toNat / 0x2000 * 0x2000 + a.toNat % 2 := by
  have ha := a.isLt
  have split : a &&& 0xE001#16 = (a &&& ~~~BitVec.ofNat 16 (2 ^ 13 - 1)) + (a &&& BitVec.ofNat 16 (2 ^ 1 - 1)) := by
    rw [← or_and_eq_add (by rw [BitVec.and_assoc]; exact BitVec.and_zero), ← BitVec.and_or_distrib_left]
    rfl
  rw [split, and_high a (by decide), and_low a (by decide), ← BitVec.ofNat_add, BitVec.toNat_ofNat]
  omega

/-- MMC3's registers by the address (R655, R656, R659 to R661, R663, R664). -/
theorem mmc3Write_eq (m : Mmc3) {a : Word} (b : Byte) (ha : 0x8000 ≤ a.toNat) :
    mmc3Write m a b =
      if a.toNat < 0xA000 then
        (if a.toNat % 2 = 0 then { m with bankSelect := b }
         else { m with r := m.r.set (field m.bankSelect 0 3).toNat b (by exact (field m.bankSelect 0 3).isLt) })
      else if a.toNat < 0xC000 then
        (if a.toNat % 2 = 0 then { m with mirroring := b.getLsbD 0 } else { m with prgRamProtect := b })
      else if a.toNat < 0xE000 then
        (if a.toNat % 2 = 0 then { m with irqLatch := b } else { m with irqReload := true })
      else
        (if a.toNat % 2 = 0 then { m with irqEnable := false, irqFlag := false } else { m with irqEnable := true }) := by
  have hlt := a.isLt
  rw [mmc3Write, mmc3Select_toNat]
  split_ifs with hA h0 hC h0 hE h0 h0
  · rw [show a.toNat / 0x2000 * 0x2000 + a.toNat % 2 = 0x8000 by omega]; rfl
  · rw [show a.toNat / 0x2000 * 0x2000 + a.toNat % 2 = 0x8001 by omega]; rfl
  · rw [show a.toNat / 0x2000 * 0x2000 + a.toNat % 2 = 0xA000 by omega]; rfl
  · rw [show a.toNat / 0x2000 * 0x2000 + a.toNat % 2 = 0xA001 by omega]; rfl
  · rw [show a.toNat / 0x2000 * 0x2000 + a.toNat % 2 = 0xC000 by omega]; rfl
  · rw [show a.toNat / 0x2000 * 0x2000 + a.toNat % 2 = 0xC001 by omega]; rfl
  · rw [show a.toNat / 0x2000 * 0x2000 + a.toNat % 2 = 0xE000 by omega]; rfl
  · rw [show a.toNat / 0x2000 * 0x2000 + a.toNat % 2 = 0xE001 by omega]; rfl

/-- MMC3's eight bank registers after a write (R656). -/
theorem mmc3Write_r (m : Mmc3) {a : Word} (b : Byte) (ha : 0x8000 ≤ a.toNat) (j : Nat) (hj : j < 8) :
    (mmc3Write m a b).r[j] =
      if a.toNat < 0xA000 ∧ a.toNat % 2 = 1 ∧ m.bankSelect.toNat % 8 = j then b else m.r[j] := by
  have select : (field m.bankSelect 0 3).toNat = m.bankSelect.toNat % 8 := by
    rw [field_eq_ofNat, BitVec.toNat_ofNat]
    omega
  by_cases hr : a.toNat < 0xA000 ∧ a.toNat % 2 = 1
  · rw [mmc3Write_eq m b ha, if_pos hr.1, if_neg (by omega)]
    simp only [Vector.getElem_set, select, hr, true_and]
  · have kept : (mmc3Write m a b).r = m.r := by
      rw [mmc3Write_eq m b ha]
      split_ifs with hA h0
      case neg => exact absurd ⟨hA, by omega⟩ hr
      all_goals rfl
    simp only [kept]
    rw [if_neg fun h => hr ⟨h.1, h.2.1⟩]

/-- Settles O55: mapper by mapper. -/
theorem mapperRegisters : Obligations.MapperRegisters := by
  unfold Obligations.MapperRegisters
  intro s a b ha t load
  have ht : t.mapper = mapperRegWrite s.mapper a b := by rw [show t = _ from busStore_romRow b ha]
  refine ⟨?frame, fun h => ?nrom, fun k h => ?uxrom, fun k h => ?cnrom, fun k c h => ?aorom, fun m h hc => ?mmc1,
    fun m v h hs hc => mmc1_five_writes v ha h hs hc, fun m h => ?mmc3⟩
  case frame => rw [ht]; exact busStore_romRow b ha
  case nrom => rw [ht, h]; rfl
  case uxrom => rw [ht, h]; rfl
  case cnrom => rw [ht, h]; rfl
  case aorom => rw [ht, h]; rfl
  case mmc1 => rw [ht, h, mapperRegWrite, mmc1Write_eq b ha hc]; rfl
  case mmc3 =>
    refine ⟨mmc3Write m a b, by rw [ht, h]; rfl, mmc3Write_r m b ha, ?_⟩
    rw [mmc3Write_eq m b ha]
    split_ifs <;> rfl

end Sys2Proof.Machine
end

section
/-! SUPPORT. The PRG windows and the mirroring of the mappers (64_mappers.md R610 to R660). -/

namespace Sys2Proof.Machine

/-! ### Banks in integers -/

/-- Bit 14 of an address in 0x8000..0xFFFF tells the two 16 KB windows apart. -/
theorem bit14_eq {a : Word} (h : 0x8000 ≤ a.toNat) : bit a 14 = decide (¬a.toNat < 0xC000) := by
  have hlt := a.isLt
  rw [bit_eq_decide, decide_eq_decide]
  omega

/-- MMC1's 16 KB bank, in integers (R642). -/
theorem mmc1PrgBank_eq (m : Mmc1) (n16 : Nat) {a : Word} (h : 0x8000 ≤ a.toNat) :
    mmc1PrgBank m n16 a =
      let p := m.prgBank.toNat % 16
      let mode := m.control.toNat / 4 % 4
      if mode < 2 then 2 * (p / 2) + (if a.toNat < 0xC000 then 0 else 1)
      else if mode = 2 then (if a.toNat < 0xC000 then 0 else p)
      else if a.toNat < 0xC000 then p else n16 - 1 := by
  have prg : (field m.prgBank 0 4).toNat = m.prgBank.toNat % 16 := by
    rw [field_eq_ofNat, BitVec.toNat_ofNat]; omega
  have mode : (field m.control 2 2).toNat = m.control.toNat / 4 % 4 := by
    rw [field_eq_ofNat, BitVec.toNat_ofNat]; omega
  rw [mmc1PrgBank, prg, mode, bit14_eq h]
  have hmode : m.control.toNat / 4 % 4 < 4 := Nat.mod_lt _ (by decide)
  generalize m.control.toNat / 4 % 4 = k at hmode
  dsimp only
  by_cases low : a.toNat < 0xC000
  · interval_cases k <;> simp [low, Nat.mul_comm]
  · interval_cases k <;> simp [low, Nat.mul_comm]

/-- MMC3's 8 KB bank, in integers (R657). -/
theorem mmc3PrgBank_eq (m : Mmc3) (n8 : Nat) {a : Word} (h : 0x8000 ≤ a.toNat) :
    mmc3PrgBank m n8 a =
      let swapped := m.bankSelect.getLsbD 6
      if a.toNat < 0xA000 then (if swapped then n8 - 2 else (m.r[6]).toNat)
      else if a.toNat < 0xC000 then (m.r[7]).toNat
      else if a.toNat < 0xE000 then (if swapped then (m.r[6]).toNat else n8 - 2)
      else n8 - 1 := by
  have hlt := a.isLt
  have window : (field a 13 2).toNat = a.toNat / 0x2000 - 4 := by
    rw [field_eq_ofNat, BitVec.toNat_ofNat]
    omega
  rw [mmc3PrgBank, window]
  dsimp only
  by_cases hA : a.toNat < 0xA000
  · rw [show a.toNat / 0x2000 - 4 = 0 by omega, if_pos hA]; rfl
  by_cases hC : a.toNat < 0xC000
  · rw [show a.toNat / 0x2000 - 4 = 1 by omega, if_neg hA, if_pos hC]; rfl
  by_cases hE : a.toNat < 0xE000
  · rw [show a.toNat / 0x2000 - 4 = 2 by omega, if_neg hA, if_neg hC, if_pos hE]; rfl
  · rw [show a.toNat / 0x2000 - 4 = 3 by omega, if_neg hA, if_neg hC, if_neg hE]; rfl

/-- UxROM's offset: the selected bank, then the last one (R620). -/
theorem prgOffset_uxrom (k : Byte) {c : Cartridge} (a : Word) (h : 0 < c.prgLen / 16384) :
    prgOffset (.uxrom k) c a =
      16384 * (if a.toNat < 0xC000 then k.toNat % (c.prgLen / 16384) else c.prgLen / 16384 - 1) +
        a.toNat % 16384 := by
  have last : (c.prgLen / 16384 - 1) % (c.prgLen / 16384) = c.prgLen / 16384 - 1 := Nat.mod_eq_of_lt (by omega)
  simp only [prgOffset, bankOffset, banks16k, last]
  split <;> rw [Nat.mul_comm]

/-- A read of 0x8000..0xFFFF shows the byte of PRG ROM at the mapper's offset. -/
theorem busRead_rom {s : State} {a : Word} (h : 0x8000 ≤ a.toNat) :
    (busRead s a).1 = Cells.read s.cart.prgRom (prgOffset s.mapper s.cart a) := by
  rw [busRead_mapperRow (by omega), mapperCpuRead_rom h]
  rfl

/-- MMC1's mirroring (R641). -/
theorem mirroringOf_mmc1 {s : State} {m : Mmc1} (h : s.mapper = .mmc1 m) :
    mirroringOf s =
      [Mirroring.singleA, .singleB, .vertical, .horizontal].getD (m.control.toNat % 4) .horizontal := by
  have mode : (field m.control 0 2).toNat = m.control.toNat % 4 := by
    rw [field_eq_ofNat, BitVec.toNat_ofNat]; omega
  have hmode : m.control.toNat % 4 < 4 := Nat.mod_lt _ (by decide)
  rw [mirroringOf, h]
  dsimp only
  rw [mode]
  generalize m.control.toNat % 4 = k at hmode
  interval_cases k <;> rfl

/-- Settles O56: the offset of each mapper in integers, and its mirroring. -/
theorem mapperWindows : Obligations.MapperWindows := by
  unfold Obligations.MapperWindows
  intro s a ha wf n16 n8 rom seen o16 o8
  have hseen : seen = rom (prgOffset s.mapper s.cart a) := busRead_rom ha
  obtain ⟨positive, whole, -⟩ := wf
  have banks : 0 < n16 := by omega
  refine ⟨fun h => ⟨?nrom, by rw [mirroringOf, h]⟩, fun k h => ⟨?uxrom, by rw [mirroringOf, h]⟩,
    fun k h => ⟨?cnrom, by rw [mirroringOf, h]⟩, fun k c h => ⟨?aorom, by rw [mirroringOf, h]⟩,
    fun m h => ⟨?mmc1, mirroringOf_mmc1 h⟩, fun m h => ⟨?mmc3, by rw [mirroringOf, h]⟩⟩
  case nrom => rw [hseen, h]; rfl
  case uxrom => rw [hseen, h, prgOffset_uxrom k a banks]
  case cnrom => rw [hseen, h]; rfl
  case aorom => rw [hseen, h]; rfl
  case mmc1 =>
    rw [hseen, h, prgOffset, mmc1PrgBank_eq _ _ ha, bankOffset, Nat.mul_comm]
    rfl
  case mmc3 =>
    rw [hseen, h, prgOffset, mmc3PrgBank_eq _ _ ha, bankOffset, Nat.mul_comm]
    rfl

end Sys2Proof.Machine
end

section
/-! SUPPORT. The PPU's memory whole (62_ppu.md R430 to R436, 64_mappers.md R644, R658), and MMC3's A12 counter
(64_mappers.md R662, R665). -/

namespace Sys2Proof.Machine

/-! ### CHR banks in integers -/

/-- A12 of a pattern address. -/
theorem bit12_eq {a : VAddr} (h : a.toNat < 0x2000) : bit a 12 = decide (0x1000 ≤ a.toNat) := by
  rw [bit_eq_decide, decide_eq_decide]
  omega

/-- MMC1's 4 KB bank, in integers (R644). -/
theorem mmc1ChrBank_eq (m : Mmc1) {a : VAddr} (h : a.toNat < 0x2000) :
    mmc1ChrBank m a =
      if m.control.getLsbD 4 then (if a.toNat < 0x1000 then m.chrBank0.toNat else m.chrBank1.toNat)
      else m.chrBank0.toNat / 2 * 2 + a.toNat / 0x1000 := by
  rw [mmc1ChrBank, bit12_eq h]
  refine if_congr Iff.rfl ?_ ?_
  · by_cases low : a.toNat < 0x1000
    · rw [if_pos low, if_neg (by simpa using low)]
    · rw [if_neg low, if_pos (by simpa using low)]
  · rw [bitNat]
    by_cases low : a.toNat < 0x1000
    · rw [if_neg (by simpa using low), show a.toNat / 0x1000 = 0 by omega]
    · rw [if_pos (by simpa using low), show a.toNat / 0x1000 = 1 by omega]

/-- MMC3's 1 KB window, its halves swapped by bit 7 of the bank select. -/
theorem mmc3Window_eq (swapped : Bool) {a : VAddr} (h : a.toNat < 0x2000) :
    (field (a ^^^ bitAt 14 swapped 12) 10 3).toNat =
      (if swapped then (a.toNat + 0x1000) % 0x2000 else a.toNat) / 1024 := by
  have plain : (field a 10 3).toNat = a.toNat / 1024 := by
    rw [field_eq_ofNat, BitVec.toNat_ofNat]
    omega
  cases swapped with
  | false =>
    rw [show bitAt 14 false 12 = 0#14 from rfl, BitVec.xor_zero, plain]
    rfl
  | true =>
    have flip : ∀ w : BitVec 3, (w ^^^ 4#3).toNat = (w.toNat + 4) % 8 := by decide
    have top : field (bitAt 14 true 12) 10 3 = 4#3 := rfl
    have split : field (a ^^^ bitAt 14 true 12) 10 3 = field a 10 3 ^^^ field (bitAt 14 true 12) 10 3 :=
      BitVec.extractLsb'_xor
    rw [split, top, flip, plain, if_pos rfl]
    omega

theorem and_0xFE_toNat (b : Byte) : (b &&& 0xFE#8).toNat = b.toNat / 2 * 2 := by
  have hb := b.isLt
  rw [show b &&& 0xFE#8 = _ from and_high b (k := 1) (by decide), BitVec.toNat_ofNat]
  omega

theorem or_one_toNat (b : Byte) : (b ||| 1#8).toNat = b.toNat / 2 * 2 + 1 := by
  revert b
  decide

/-- MMC3's 1 KB bank, in integers (R658). -/
theorem mmc3ChrBank_eq (m : Mmc3) {a : VAddr} (h : a.toNat < 0x2000) :
    mmc3ChrBank m a =
      let window := (if m.bankSelect.getLsbD 7 then (a.toNat + 0x1000) % 0x2000 else a.toNat) / 1024
      if window < 4 then (m.r.toList.getD (window / 2) 0#8).toNat / 2 * 2 + window % 2
      else (m.r.toList.getD (window - 2) 0#8).toNat := by
  have hw : (if m.bankSelect.getLsbD 7 then (a.toNat + 0x1000) % 0x2000 else a.toNat) / 1024 < 8 := by
    split <;> omega
  rw [mmc3ChrBank, mmc3Window_eq _ h, bit]
  generalize (if m.bankSelect.getLsbD 7 then (a.toNat + 0x1000) % 0x2000 else a.toNat) / 1024 = w at hw
  interval_cases w <;> simp [and_0xFE_toNat, or_one_toNat, -BitVec.toNat_and, -BitVec.toNat_or]

/-! ### Pattern tables -/

/-- The Byte of `chr` a pattern address shows. -/
def chrByte (s : State) (a : VAddr) : Byte :=
  if s.cart.chrLen = 0 then Cells.read s.board.chrRam (chrOffset s.mapper s.cart a)
  else Cells.read s.cart.chrRom (chrOffset s.mapper s.cart a)

/-- A read of the pattern tables, whole (R430, R436). -/
theorem ppuRead_chr_eq {s : State} {a : VAddr} (h : a.toNat < 0x2000) :
    ppuRead s a = (chrByte s a, { s with mapper := onPpuA12 s.mapper (decide (0x1000 ≤ a.toNat)) }) := by
  rw [← bit12_eq h, ppuRead, if_pos h]
  simp only [chrRead, notifyA12, State.setMapper_mapper, State.setMapper_cart, State.setMapper_board,
    chrOffset_onPpuA12]
  rfl

/-- A read of the pattern tables after a write there: CHR RAM holds the Byte, CHR ROM keeps its own. -/
theorem ppuRead_ppuWrite_chr {s : State} {a : VAddr} (b : Byte) (h : a.toNat < 0x2000) :
    (ppuRead (ppuWrite s a b) a).1 = if s.cart.chrLen = 0 then b else chrByte s a := by
  rw [ppuWrite_chr b h, ppuRead_chr_eq h, chrByte]
  simp only [chrOffset_onPpuA12]
  by_cases ram : s.cart.chrLen = 0
  · simp only [if_pos ram, Cells.read_write_same]
  · rw [if_neg ram, if_neg ram, chrByte, if_neg ram]

/-! ### Nametables -/

/-- The bank and the offset of a nametable address, in integers (R432). -/
theorem nametableCell_eq (s : State) (a : VAddr) :
    nametableCell s a = (nametableBank (mirroringOf s) (a.toNat / 1024 % 4), a.toNat % 1024) := by
  have bank : (field a 10 2).toNat = a.toNat / 1024 % 4 := by rw [field_eq_ofNat, BitVec.toNat_ofNat]; omega
  have offset : (field a 0 10).toNat = a.toNat % 1024 := by rw [field_eq_ofNat, BitVec.toNat_ofNat]; omega
  rw [nametableCell, bank, offset]

/-- The Byte a nametable address shows. -/
def nametableByte (s : State) (bank o : Nat) : Byte :=
  if bank < 2 then Cells.read s.ppu.vram (1024 * bank + o) else Cells.read s.board.cartVram (1024 * (bank - 2) + o)

/-- A read of a nametable, whole. -/
theorem ppuRead_nametable {s : State} {a : VAddr} (h1 : 0x2000 ≤ a.toNat) (h2 : a.toNat < 0x3F00) :
    ppuRead s a = (nametableByte s (nametableBank (mirroringOf s) (a.toNat / 1024 % 4)) (a.toNat % 1024), s) := by
  rw [ppuRead, if_neg (by omega), if_pos h2, ntRead, nametableCell_eq, nametableByte]
  simp only [Nat.mul_comm]

/-- A write of a nametable, whole. -/
theorem ppuWrite_nametable {s : State} {a : VAddr} (b : Byte) (h1 : 0x2000 ≤ a.toNat) (h2 : a.toNat < 0x3F00) :
    let bank := nametableBank (mirroringOf s) (a.toNat / 1024 % 4)
    let o := a.toNat % 1024
    ppuWrite s a b =
      if bank < 2 then { s with ppu := { s.ppu with vram := Cells.write s.ppu.vram (1024 * bank + o) b } }
      else { s with board := { s.board with
        cartVram := Cells.write s.board.cartVram (1024 * (bank - 2) + o) b } } := by
  rw [ppuWrite, if_neg (by omega), if_pos h2, ntWrite, nametableCell_eq]
  simp only [Nat.mul_comm]
  rfl

/-- A read of a nametable after a write there. -/
theorem ppuRead_ppuWrite_nametable {s : State} {a : VAddr} (b : Byte) (h1 : 0x2000 ≤ a.toNat)
    (h2 : a.toNat < 0x3F00) : (ppuRead (ppuWrite s a b) a).1 = b := by
  have mirroring : mirroringOf (ppuWrite s a b) = mirroringOf s := by
    rw [ppuWrite_nametable b h1 h2]
    dsimp only
    split <;> rfl
  rw [ppuRead_nametable h1 h2, mirroring, ppuWrite_nametable b h1 h2, nametableByte]
  dsimp only
  split <;> exact Cells.read_write_same _ _ _

/-! ### Palette -/

/-- The palette's index in integers: 0x10, 0x14, 0x18, 0x1C are 0x00, 0x04, 0x08, 0x0C (R434). -/
theorem paletteIndex_eq (a : VAddr) :
    paletteIndex a = if a.toNat % 32 ∈ [16, 20, 24, 28] then a.toNat % 32 - 16 else a.toNat % 32 := by
  have low : (field a 0 5).toNat = a.toNat % 32 := by rw [field_eq_ofNat, BitVec.toNat_ofNat]; omega
  have table : ∀ p : BitVec 5, (if p &&& 0x13#5 = 0x10#5 then p &&& 0x0F#5 else p).toNat =
      if p.toNat ∈ [16, 20, 24, 28] then p.toNat - 16 else p.toNat := by decide
  rw [paletteIndex, table, low]

/-- A palette entry as read: greyscale keeps the two high bits (R457). -/
theorem paletteRead_eq (p : Ppu) (a : VAddr) :
    paletteRead p a = Cells.read p.palette (paletteIndex a) &&& (if p.mask.getLsbD 0 then 0x30#6 else 0x3F#6) := by
  rw [paletteRead, bit]
  cases p.mask.getLsbD 0 with
  | false => exact BitVec.and_allOnes.symm
  | true => rfl

/-- A read of the palette, whole. -/
theorem ppuRead_palette {s : State} {a : VAddr} (h : 0x3F00 ≤ a.toNat) :
    ppuRead s a = ((Cells.read s.ppu.palette (paletteIndex a) &&&
      (if s.ppu.mask.getLsbD 0 then 0x30#6 else 0x3F#6)).setWidth 8, s) := by
  rw [ppuRead, if_neg (by omega), if_neg (by omega), paletteRead_eq]

/-- A write of the palette, whole: six bits are kept. -/
theorem ppuWrite_palette {s : State} {a : VAddr} (b : Byte) (h : 0x3F00 ≤ a.toNat) :
    ppuWrite s a b =
      { s with ppu := { s.ppu with palette := Cells.write s.ppu.palette (paletteIndex a) (b.setWidth 6) } } := by
  rw [ppuWrite, if_neg (by omega), if_neg (by omega), paletteWrite,
    show field b 0 6 = b.setWidth 6 from (BitVec.setWidth_eq_extractLsb' (by decide)).symm]
  rfl

/-- The six bits of a Byte under the greyscale mask. -/
theorem setWidth_six_and (b : Byte) (mono : Bool) :
    (b.setWidth 6 &&& (if mono then 0x30#6 else 0x3F#6)).setWidth 8 = b &&& (if mono then 0x30#8 else 0x3F#8) := by
  revert b mono
  decide

/-- A read of the palette after a write of the same entry. -/
theorem ppuRead_ppuWrite_palette {s : State} {a a' : VAddr} (b : Byte) (h : 0x3F00 ≤ a.toNat)
    (h' : 0x3F00 ≤ a'.toNat) (same : paletteIndex a' = paletteIndex a) :
    (ppuRead (ppuWrite s a b) a').1 = b &&& (if s.ppu.mask.getLsbD 0 then 0x30#8 else 0x3F#8) := by
  rw [ppuWrite_palette b h, ppuRead_palette h', same, Cells.read_write_same, setWidth_six_and]

/-- The banks of the nametables under each mirroring (R432). -/
theorem nametableBank_table {i : Nat} (h : i < 4) :
    [nametableBank .horizontal i, nametableBank .vertical i, nametableBank .singleA i,
        nametableBank .singleB i, nametableBank .fourScreen i] =
      [[0, 0, 1, 1].getD i 0, [0, 1, 0, 1].getD i 0, 0, 1, [0, 1, 2, 3].getD i 0] := by
  interval_cases i <;> rfl

/-- Settles O47: region by region, the pattern tables' offset mapper by mapper. -/
theorem ppuMemory : Obligations.PpuMemory := by
  unfold Obligations.PpuMemory
  intro s a a' b
  refine ⟨fun i => ?banks, fun h => ?chr, fun h1 h2 => ?nametable, fun h => ?palette⟩
  case banks => exact (Nat.lt_or_ge i 4).imp nametableBank_table id
  case chr =>
    intro size off told seen
    have offset : chrOffset s.mapper s.cart a = off := by
      unfold chrOffset off
      cases s.mapper with
      | nrom => rfl
      | uxrom bank => rfl
      | aorom bank page => rfl
      | cnrom bank => rfl
      | mmc1 m => exact congrArg (bankOffset · _ 4096 a.toNat) (mmc1ChrBank_eq m h)
      | mmc3 m => exact congrArg (bankOffset · _ 1024 a.toNat) (mmc3ChrBank_eq m h)
    have hseen : chrByte s a = seen := by rw [chrByte, offset]
    refine ⟨?_, ?_, ?_⟩
    · rw [ppuRead_chr_eq h, hseen]
    · rw [ppuWrite_chr b h, bit12_eq h, offset]
    · rw [ppuRead_ppuWrite_chr b h, hseen]
  case nametable =>
    exact ⟨ppuRead_nametable h1 h2, ppuWrite_nametable b h1 h2, ppuRead_ppuWrite_nametable b h1 h2⟩
  case palette =>
    intro index mono
    have hi (x : VAddr) : paletteIndex x = index x := paletteIndex_eq x
    rw [← hi]
    exact ⟨ppuRead_palette h, ppuWrite_palette b h, fun h' same =>
      ppuRead_ppuWrite_palette b h h' ((hi a').trans same)⟩

end Sys2Proof.Machine
end

section
/-! SUPPORT. MMC3's A12 counter (64_mappers.md R662, R665). -/

namespace Sys2Proof.Machine

/-- The counter after a rising edge of A12 (R662). -/
def Mmc3.nextCounter (m : Mmc3) : Byte :=
  if m.irqCounter = 0#8 ∨ m.irqReload = true then m.irqLatch else m.irqCounter - 1#8

/-- One clock of the counter, whole: the reload request is taken and the flag may rise. -/
theorem mmc3Clock_whole (m : Mmc3) :
    mmc3Clock m = { m with irqCounter := m.nextCounter, irqReload := false,
                           irqFlag := m.irqFlag || decide (m.nextCounter = 0#8 ∧ m.irqEnable = true) } := by
  obtain ⟨bankSelect, r, mirroring, prgRamProtect, irqLatch, irqCounter, irqReload, irqEnable, irqFlag, lastA12⟩ := m
  unfold mmc3Clock Mmc3.nextCounter
  by_cases reload : irqCounter = 0#8 ∨ irqReload = true
  · by_cases raise : irqLatch = 0#8 ∧ irqEnable = true <;> simp [reload, raise]
  · obtain ⟨running, rfl⟩ : irqCounter ≠ 0#8 ∧ irqReload = false := by simpa using reload
    by_cases raise : irqCounter - 1#8 = 0#8 ∧ irqEnable = true <;> simp [running, raise]

/-- What a level of A12 does to MMC3. -/
theorem onPpuA12_mmc3 (m : Mmc3) (level : Bool) :
    onPpuA12 (.mmc3 m) level = .mmc3
      (if m.lastA12 = false ∧ level = true then
        { m with irqCounter := m.nextCounter, irqReload := false, lastA12 := true,
                 irqFlag := m.irqFlag || decide (m.nextCounter = 0#8 ∧ m.irqEnable = true) }
      else { m with lastA12 := level }) := by
  simp only [onPpuA12, mmc3Clock_whole]
  by_cases rising : m.lastA12 = false ∧ level = true
  · obtain ⟨low, rfl⟩ := rising
    simp [low]
  · rw [if_neg rising, if_neg (by simpa using rising)]

/-- A write tells the mapper what a read of the same address tells it. -/
theorem ppuWrite_mapper (s : State) (a : VAddr) (b : Byte) : (ppuWrite s a b).mapper = (ppuRead s a).2.mapper := by
  by_cases chr : a.toNat < 0x2000
  · rw [ppuWrite_chr b chr, ppuRead_chr chr]
  · by_cases nt : a.toNat < 0x3F00
    · rw [ppuWrite_nametable b (by omega) nt, ppuRead_nametable (by omega) nt]
      dsimp only
      split <;> rfl
    · rw [ppuWrite_palette b (by omega), ppuRead_palette (by omega)]

/-- One edge of A12: an access with it high, then one with it low. -/
def a12Edge (u : State) : State := (ppuRead (ppuRead u 0x1000#14).2 0x0000#14).2

/-- What an edge does to MMC3 with A12 low before it. -/
theorem a12Edge_mmc3 {u : State} {m : Mmc3} (hm : u.mapper = .mmc3 m) (low : m.lastA12 = false) :
    (a12Edge u).mapper = .mmc3
      { m with irqCounter := m.nextCounter, irqReload := false,
               irqFlag := m.irqFlag || decide (m.nextCounter = 0#8 ∧ m.irqEnable = true) } := by
  rw [a12Edge, ppuRead_chr_eq (a := 0x0000#14) (by decide), ppuRead_chr_eq (a := 0x1000#14) (by decide)]
  dsimp only
  rw [hm, onPpuA12_mmc3, if_pos ⟨low, by decide⟩, onPpuA12_mmc3, if_neg (by simp)]
  simp [low]

/-- MMC3 `n` edges after a reload request: at first the request stands, then the counter holds what is left of the
latch, and the flag is raised by the edge that finds it 0. -/
structure CountsDown (latch : Byte) (n : Nat) (m : Mmc3) : Prop where
  irqLatch : m.irqLatch = latch
  enabled : m.irqEnable = true
  low : m.lastA12 = false
  flag : m.irqFlag = decide (n = latch.toNat + 1)
  counter : (n = 0 ∧ m.irqReload = true) ∨ (m.irqReload = false ∧ m.irqCounter.toNat + n = latch.toNat + 1)

/-- The counter after the next edge. -/
theorem CountsDown.nextCounter {latch : Byte} {n : Nat} {m : Mmc3} (h : CountsDown latch n m)
    (hn : n ≤ latch.toNat) : m.nextCounter.toNat + n = latch.toNat := by
  rw [Mmc3.nextCounter]
  rcases h.counter with ⟨rfl, reload⟩ | ⟨running, left⟩
  · rw [if_pos (.inr reload), h.irqLatch]
    rfl
  · have positive : m.irqCounter ≠ 0#8 := by
      intro zero
      rw [zero, BitVec.toNat_ofNat] at left
      omega
    rw [if_neg (by simp [positive, running])]
    bv_omega

/-- An edge counts down by one. -/
theorem CountsDown.edge {latch : Byte} {n : Nat} {u : State} {m : Mmc3} (hm : u.mapper = .mmc3 m)
    (h : CountsDown latch n m) (hn : n ≤ latch.toNat) :
    ∃ m', (a12Edge u).mapper = .mmc3 m' ∧ CountsDown latch (n + 1) m' := by
  have left := h.nextCounter hn
  refine ⟨_, a12Edge_mmc3 hm h.low, ⟨h.irqLatch, h.enabled, h.low, ?_, .inr ⟨rfl, by dsimp only; omega⟩⟩⟩
  have quiet : m.irqFlag = false := by rw [h.flag, decide_eq_false (by omega)]
  have zero : m.nextCounter = 0#8 ↔ n + 1 = latch.toNat + 1 := by
    rw [← BitVec.toNat_inj, BitVec.toNat_ofNat]
    omega
  simp only [quiet, h.enabled, and_true, Bool.false_or, zero]

/-- Any number of edges up to `latch + 1` counts down. -/
theorem CountsDown.repeat {s : State} {m : Mmc3} {latch : Byte} (hm : s.mapper = .mmc3 m)
    (h : CountsDown latch 0 m) :
    ∀ n ≤ latch.toNat + 1, ∃ m', (Nat.repeat a12Edge n s).mapper = .mmc3 m' ∧ CountsDown latch n m' := by
  intro n
  induction n with
  | zero => exact fun _ => ⟨m, hm, h⟩
  | succ n ih =>
    intro hn
    obtain ⟨m', hm', h'⟩ := ih (by omega)
    exact h'.edge hm' (by omega)

/-- Settles O57: an access of the pattern tables tells MMC3 the level of A12; the edges count the latch down. -/
theorem scanlineCounter : Obligations.ScanlineCounter := by
  unfold Obligations.ScanlineCounter
  intro s m hm
  refine ⟨fun a h => ?_, fun a b => ⟨ppuWrite_mapper s a b, fun h => ?_⟩, fun reload enabled quiet low n hn => ?_⟩
  · rw [ppuRead_chr_eq h, hm, onPpuA12_mmc3]
    simp only [decide_eq_true_eq]
    rfl
  · by_cases nt : a.toNat < 0x3F00
    · rw [ppuRead_nametable h nt]
    · rw [ppuRead_palette (by omega)]
  · have start : CountsDown m.irqLatch 0 m := ⟨rfl, enabled, low, by simpa using quiet, .inl ⟨rfl, reload⟩⟩
    obtain ⟨m', hm', h'⟩ := CountsDown.repeat hm start n hn
    exact (congrArg irqPending hm').trans h'.flag

end Sys2Proof.Machine
end

section
/-! SUPPORT. The place of a dot on the picture (62_ppu.md R445, R446) and the vertical blank flag (R441, R442). -/

namespace Sys2Proof.Machine

/-! ### The place -/

/-- Where the picture is: the position, the frame's number and its parity. -/
structure Place where
  scanline : Int
  dot : Nat
  frame : Nat
  oddFrame : Bool

/-- The place of the PPU. -/
def Ppu.place (p : Ppu) : Place := ⟨p.scanline, p.dot, p.frame, p.oddFrame⟩

/-- The place after a dot (R445, R446). -/
def Place.next (rendering : Bool) (q : Place) : Place :=
  if q.scanline = -1 ∧ q.dot = 338 ∧ q.oddFrame = true ∧ rendering = true then { q with dot := 340 }
  else if q.dot < 340 then { q with dot := q.dot + 1 }
  else if q.scanline < 260 then { q with scanline := q.scanline + 1, dot := 0 }
  else ⟨-1, 0, q.frame + 1, !q.oddFrame⟩

/-- The advance moves the place, and the place alone says where. -/
theorem advancePosition_place (p : Ppu) : (advancePosition p).place = p.place.next p.rendering := by
  unfold advancePosition Place.next
  by_cases skip : p.scanline = -1 ∧ p.dot = 338 ∧ p.oddFrame = true ∧ p.rendering = true
  · refine Eq.trans ?_ (if_pos skip).symm
    simp only [if_pos skip]
    rfl
  · refine Eq.trans ?_ (if_neg skip).symm
    simp only [if_neg skip]
    by_cases inLine : p.dot < 340
    · exact (congrArg Ppu.place (if_pos (by omega))).trans (if_pos inLine).symm
    · refine Eq.trans ?_ (if_neg inLine).symm
      rw [if_neg (by omega)]
      by_cases above : p.scanline < 260
      · exact (congrArg Ppu.place (if_pos (by omega))).trans (if_pos above).symm
      · exact (congrArg Ppu.place (if_neg (by omega))).trans (if_neg above).symm

/-- The next position. -/
theorem Place.next_position (rendering : Bool) (q : Place) :
    ((q.next rendering).scanline, (q.next rendering).dot) =
      if q.scanline = -1 ∧ q.dot = 338 ∧ q.oddFrame = true ∧ rendering = true then (q.scanline, 340)
      else if q.dot < 340 then (q.scanline, q.dot + 1)
      else if q.scanline < 260 then (q.scanline + 1, 0) else (-1, 0) := by
  unfold Place.next
  split_ifs <;> rfl

/-- The last dot of the picture ends the frame. -/
theorem Place.next_wraps {q : Place} (rendering : Bool) (h : q.scanline = 260 ∧ q.dot = 340) :
    q.next rendering = ⟨-1, 0, q.frame + 1, !q.oddFrame⟩ := by
  simp [Place.next, h]

/-- No other dot of the picture does. -/
theorem Place.next_stays {q : Place} (rendering : Bool) (bottom : q.scanline ≤ 260) (right : q.dot ≤ 340)
    (h : ¬(q.scanline = 260 ∧ q.dot = 340)) :
    (q.next rendering).frame = q.frame ∧ (q.next rendering).oddFrame = q.oddFrame := by
  unfold Place.next
  split_ifs
  · exact ⟨rfl, rfl⟩
  · exact ⟨rfl, rfl⟩
  · exact ⟨rfl, rfl⟩
  · omega

/-- The flag events move nothing. -/
theorem flagEvents_place (s : State) : (flagEvents s).ppu.place = s.ppu.place := by rw [flagEvents_eq]; rfl

/-- The stages of a dot move nothing. -/
theorem Stage.place {s t : State} (h : Stage s t) : t.ppu.place = s.ppu.place := by rw [h.kept]; rfl

/-- A dot moves the place on by one. -/
theorem ppuStep_place (s : State) : (ppuStep s).ppu.place = s.ppu.place.next s.ppu.rendering := by
  have stage := dotStages_stage (flagEvents s)
  have rendering : (flagEvents s).ppu.rendering = s.ppu.rendering := by rw [flagEvents_eq]; rfl
  rw [ppuStep_eq, State.setPpu_ppu, advancePosition_place, stage.place, stage.rendering, flagEvents_place, rendering]

/-! ### The flags -/

/-- The vertical blank flag after a dot: the flag events' own. -/
theorem ppuStep_nmiOccurred (s : State) : (ppuStep s).ppu.nmiOccurred = (flagEvents s).ppu.nmiOccurred := by
  rw [ppuStep_eq, State.setPpu_ppu, advancePosition_kept]
  exact (dotStages_stage (flagEvents s)).nmiOccurred

/-- The CPU after a dot: the flag events' own. -/
theorem ppuStep_cpu (s : State) : (ppuStep s).cpu = (flagEvents s).cpu := by
  rw [ppuStep_eq]
  exact (dotStages_stage (flagEvents s)).cpu

/-- The sprite flags after a dot of the pre-render line: the flag events' own. -/
theorem ppuStep_spriteFlags {s : State} (h : s.ppu.scanline = -1) :
    (ppuStep s).ppu.spriteZeroHit = (flagEvents s).ppu.spriteZeroHit ∧
      (ppuStep s).ppu.spriteOverflow = (flagEvents s).ppu.spriteOverflow := by
  rw [ppuStep_eq, State.setPpu_ppu, advancePosition_kept]
  exact (dotStages_stage (flagEvents s)).prerender (by rw [flagEvents_eq]; exact h)

/-- Rendering as the two bits of PPUMASK. -/
theorem rendering_iff (p : Ppu) : p.rendering = true ↔ p.mask.getLsbD 3 = true ∨ p.mask.getLsbD 4 = true :=
  Bool.or_eq_true_iff

/-- Settles O48: the flags are the flag events' own, the place is `Place.next`. -/
theorem pictureTiming : Obligations.PictureTiming := by
  unfold Obligations.PictureTiming
  intro s hs p t
  have place : t.ppu.place = p.place.next p.rendering := ppuStep_place s
  obtain ⟨⟨top, bottom⟩, right, -⟩ : p.InRange := hs
  refine ⟨?_, ?_, fun h => ?_, ?_, ?_⟩
  · rw [ppuStep_nmiOccurred, flagEvents_eq]
  · rw [ppuStep_cpu, flagEvents_eq]
    by_cases edge : p.scanline = 241 ∧ p.dot = 1 ∧ p.ctrl.getLsbD 7 = true ∧ p.nmiOccurred = false
    · rw [if_pos edge, decide_eq_true edge, Bool.or_true]
    · rw [if_neg edge, decide_eq_false edge, Bool.or_false]
  · obtain ⟨zero, overflow⟩ := ppuStep_spriteFlags h.1
    rw [zero, overflow, flagEvents_eq]
    have clear : s.ppu.scanline = -1 ∧ s.ppu.dot = 1 := h
    simp [clear]
  · intro skip
    have skips : skip ↔ p.scanline = -1 ∧ p.dot = 338 ∧ p.oddFrame = true ∧ p.rendering = true := by
      rw [rendering_iff]
    have position := Place.next_position p.rendering p.place
    rw [← place] at position
    exact position.trans (if_congr skips.symm rfl rfl)
  · intro wraps
    change t.ppu.place.frame = _ ∧ t.ppu.place.oddFrame = _
    rw [place]
    by_cases last : wraps
    · rw [Place.next_wraps _ last, if_pos last, if_pos last]
      exact ⟨rfl, rfl⟩
    · rw [if_neg last, if_neg last]
      exact Place.next_stays _ bottom right last

/-! ### The length of a frame -/

/-- The number of a place's dot, frames of 89342 dots before it counted. -/
def Place.number (q : Place) : Int := 89342 * q.frame + 341 * (q.scanline + 1) + q.dot

/-- `r` is the place `n` dots after `q`, none of them skipped. -/
structure Place.After (n : Nat) (q r : Place) : Prop where
  scanline : -1 ≤ r.scanline ∧ r.scanline ≤ 260
  dot : r.dot ≤ 340
  number : r.number = q.number + n
  oddFrame : r.oddFrame = (q.oddFrame ^^ decide ((r.frame + q.frame) % 2 = 1))

/-- One dot more. -/
theorem Place.After.next {n : Nat} {q r : Place} (h : q.After n r) : q.After (n + 1) (r.next false) := by
  obtain ⟨⟨top, bottom⟩, right, number, oddFrame⟩ := h
  unfold Place.number at number
  by_cases wraps : r.scanline = 260 ∧ r.dot = 340
  · rw [Place.next_wraps false wraps]
    refine ⟨(by decide : (-1 : Int) ≤ -1 ∧ (-1 : Int) ≤ 260), Nat.zero_le 340, ?_, ?_⟩
    · unfold Place.number
      push_cast
      omega
    · rw [oddFrame]
      rcases Nat.mod_two_eq_zero_or_one (r.frame + q.frame) with even | odd
      · simp [even, show (r.frame + 1 + q.frame) % 2 = 1 by omega]
      · simp [odd, show (r.frame + 1 + q.frame) % 2 = 0 by omega]
  · obtain ⟨frame, parity⟩ := Place.next_stays false bottom right wraps
    have position := Place.next_position false r
    rw [if_neg (by simp), Prod.ext_iff] at position
    have moved : ((r.next false).scanline = r.scanline ∧ (r.next false).dot = r.dot + 1 ∧ r.dot < 340) ∨
        ((r.next false).scanline = r.scanline + 1 ∧ (r.next false).dot = 0 ∧ r.dot = 340 ∧ r.scanline < 260) := by
      obtain ⟨scanline, dot⟩ := position
      dsimp only at scanline dot
      split_ifs at scanline dot
      · exact .inl ⟨scanline, dot, by assumption⟩
      · exact .inr ⟨scanline, dot, by omega, by assumption⟩
      · omega
    refine ⟨by omega, by omega, ?_, by rw [parity, frame, oddFrame]⟩
    unfold Place.number
    rw [frame]
    push_cast
    omega

/-- The last dot of a run. -/
theorem ppuRun_succ (n : Nat) (s : State) : ppuRun (n + 1) s = ppuStep (ppuRun n s) := by
  induction n generalizing s with
  | zero => rfl
  | succ n ih => exact ih (ppuStep s)

/-- One dot with rendering disabled keeps `v` and the mapper. -/
theorem ppuStep_idle {s : State} (idle : s.ppu.rendering = false) :
    (ppuStep s).ppu.v = s.ppu.v ∧ (ppuStep s).mapper = s.mapper := by
  have stage := (dotStages_stage (flagEvents s)).idle (by rw [flagEvents_eq]; exact idle)
  rw [flagEvents_eq] at stage
  rw [ppuStep_eq, State.setPpu_ppu, advancePosition_kept, flagEvents_eq]
  exact stage

/-- Dots with rendering disabled: the place goes on by one each, `v` and the mapper stay. -/
theorem ppuRun_idle (n : Nat) {s : State} (hs : s.ppu.InRange) (idle : s.ppu.rendering = false) :
    s.ppu.place.After n (ppuRun n s).ppu.place ∧ (ppuRun n s).ppu.v = s.ppu.v ∧ (ppuRun n s).mapper = s.mapper := by
  induction n with
  | zero => exact ⟨⟨hs.scanline, hs.dot, (Int.add_zero _).symm, by simp [ppuRun, ← Nat.two_mul]⟩, rfl, rfl⟩
  | succ n ih =>
    obtain ⟨after, v, mapper⟩ := ih
    have still : (ppuRun n s).ppu.rendering = false := by
      rw [Ppu.rendering, (ppuRun_frame n s).mask]
      exact idle
    obtain ⟨v', mapper'⟩ := ppuStep_idle still
    rw [ppuRun_succ, ppuStep_place, still]
    exact ⟨after.next, v'.trans v, mapper'.trans mapper⟩

/-- A frame of dots comes back to its place. -/
theorem ppuRun_wholeFrame {n : Nat} (hn : n = 89342) {s : State} (hs : s.ppu.InRange)
    (idle : s.ppu.rendering = false) :
    (ppuRun n s).ppu.place = { s.ppu.place with frame := s.ppu.frame + 1, oddFrame := !s.ppu.oddFrame } := by
  obtain ⟨⟨scanline, dot, number, oddFrame⟩, -⟩ := ppuRun_idle n hs idle
  generalize (ppuRun n s).ppu.place = r at scanline dot number oddFrame
  obtain ⟨line, column, frame, odd⟩ := r
  obtain ⟨⟨top, bottom⟩, right, -⟩ := hs
  simp only [Place.number, Ppu.place] at scanline dot number oddFrame ⊢
  obtain rfl : frame = s.ppu.frame + 1 := by omega
  obtain rfl : line = s.ppu.scanline := by omega
  obtain rfl : column = s.ppu.dot := by omega
  have parity : (s.ppu.frame + 1 + s.ppu.frame) % 2 = 1 := by omega
  have flips : odd = !s.ppu.oddFrame :=
    oddFrame.trans ((congrArg (s.ppu.oddFrame ^^ ·) (decide_eq_true parity)).trans (Bool.xor_true _))
  rw [flips]

/-- Settles O50: the dots of a frame are counted through, one number each. -/
theorem frameLength : Obligations.FrameLength := by
  have counted : ∀ n, n = 89342 → ∀ s : State, s.ppu.InRange → s.ppu.mask.getLsbD 3 = false →
      s.ppu.mask.getLsbD 4 = false →
      let t := ppuRun n s
      t.ppu.scanline = s.ppu.scanline ∧ t.ppu.dot = s.ppu.dot ∧ t.ppu.frame = s.ppu.frame + 1 ∧
        t.ppu.oddFrame = !s.ppu.oddFrame ∧ t.ppu.v = s.ppu.v ∧ t.mapper = s.mapper := by
    intro n hn s hs bit3 bit4 t
    have idle : s.ppu.rendering = false := Bool.or_eq_false_iff.mpr ⟨bit3, bit4⟩
    have place : t.ppu.place = _ := ppuRun_wholeFrame hn hs idle
    obtain ⟨-, v, mapper⟩ := ppuRun_idle n hs idle
    exact ⟨congrArg Place.scanline place, congrArg Place.dot place, congrArg Place.frame place,
      congrArg Place.oddFrame place, v, mapper⟩
  exact counted 89342 rfl

end Sys2Proof.Machine
end

section
/-! SUPPORT. The reset sequence whole, at power-on and at run time (70_reset_and_hazards.md R700 to R703). -/

namespace Sys2Proof.Machine

/-- The reset sequence, whole (R701). -/
theorem cpuReset_eq (s : State) :
    cpuReset s =
      { s with
        dataBus := prgByte s 0xFFFD#16
        pendingStall := 0
        cpu := { s.cpu with sp := 0xFD#8, pc := vectorWord s 0xFFFC#16, p := { s.cpu.p with i := true },
                            cycles := s.cpu.cycles + 7, nmiPending := false } } := by
  unfold cpuReset
  dsimp only
  rw [read16_vector _ Config.resetVector (by decide) (by decide)]
  rfl

/-- PRG ROM shows what the cartridge and its mapper say. -/
theorem prgByte_congr {s t : State} (cart : s.cart = t.cart) (mapper : s.mapper = t.mapper) (a : Word) :
    prgByte s a = prgByte t a := by rw [prgByte, prgByte, cart, mapper]

/-- A vector is what the cartridge and its mapper say. -/
theorem vectorWord_congr {s t : State} (cart : s.cart = t.cart) (mapper : s.mapper = t.mapper) (a : Word) :
    vectorWord s a = vectorWord t a := by
  rw [vectorWord, vectorWord, prgByte_congr cart mapper, prgByte_congr cart mapper]

/-- A state is the built one after the reset sequence exactly when its own vector says so: the sequence moves
neither the cartridge nor the mapper. -/
theorem eq_cpuReset_built (c : Cartridge) (k : Params) (o : PowerOnValues) (s : State) :
    cpuReset (State.built c k o) = s ↔
      s = { State.built c k o with
        dataBus := prgByte s 0xFFFD#16
        cpu := { a := o.a, x := o.x, y := o.y, sp := 0xFD#8, pc := vectorWord s 0xFFFC#16,
                 p := { c := o.c, z := o.z, i := true, d := o.d, v := o.v, n := o.n },
                 cycles := 7, nmiPending := false } } := by
  rw [cpuReset_eq]
  constructor
  · rintro rfl
    rfl
  · intro h
    have cart : s.cart = (State.built c k o).cart := (congrArg State.cart h :)
    have mapper : s.mapper = (State.built c k o).mapper := (congrArg State.mapper h :)
    rw [prgByte_congr cart mapper, vectorWord_congr cart mapper] at h
    exact h.symm

/-- The runtime reset, whole (R703). -/
theorem runtimeReset_eq (s : State) :
    runtimeReset s =
      { s with
        dataBus := prgByte s 0xFFFD#16
        ppu := s.ppu.runtimeReset
        apu := s.apu.runtimeReset
        cpu := { s.cpu with sp := 0xFD#8, pc := vectorWord s 0xFFFC#16, p := { s.cpu.p with i := true },
                            cycles := s.cpu.cycles + 7, nmiPending := false } } := by
  rw [runtimeReset, cpuReset_eq]
  rfl

/-- Power-on of the model's reset cartridge. -/
theorem powerOn_resetCartridge : powerOn resetCartridge {} {} = some State.reset := by
  rw [powerOn, if_pos (by decide), cpuReset_eq]
  rfl

/-- Settles O58: the reset sequence is `cpuReset_eq`; the columns of the runtime reset are the definitions'. -/
theorem powerOnAndReset : Obligations.PowerOnAndReset := by
  unfold Obligations.PowerOnAndReset
  refine ⟨fun c k o s => ?_, powerOn_resetCartridge, fun s => ⟨runtimeReset_eq s, ?_, ?_⟩⟩
  · rw [← eq_cpuReset_built, powerOn]
    by_cases legal : c.wf ∧ k.wf
    · rw [if_pos legal, Option.some_inj]
      exact (and_iff_right legal).symm
    · rw [if_neg legal]
      exact iff_of_false nofun fun h => legal h.1
  · rw [runtimeReset_eq]
    exact ⟨rfl, rfl, rfl, rfl, rfl, rfl, rfl, rfl, rfl, rfl, rfl, rfl, rfl, rfl, rfl, rfl⟩
  · rw [runtimeReset_eq]
    exact ⟨rfl, rfl, rfl, rfl, rfl, rfl, rfl, rfl⟩

end Sys2Proof.Machine
end

section
/-! SUPPORT. The pixel of a dot (62_ppu.md R453, R455, R458, R473): its stage in integers, and that no other stage
touches the frame buffer or, on the visible scanlines, the sprite-0 flag. -/

namespace Sys2Proof.Machine

/-! ### The stages beside the pixel's -/

/-- What the pixel stage alone writes. -/
def Ppu.output (p : Ppu) : Cells 9 × Bool := (p.frameBuffer, p.spriteZeroHit)

/-- A PPU read leaves the PPU alone. -/
theorem ppuRead_output (s : State) (a : VAddr) : (ppuRead s a).2.ppu.output = s.ppu.output := by
  rw [ppuRead_state]
  rfl

theorem fetchBackground_output (s : State) : (fetchBackground s).ppu.output = s.ppu.output := by
  unfold fetchBackground
  split
  · exact ppuRead_output s (ntAddr s.ppu)
  · exact ppuRead_output s (atAddr s.ppu)
  · exact ppuRead_output s (bgPatternAddr s.ppu)
  · exact ppuRead_output s (bgPatternAddr s.ppu ||| 8#14)
  · rfl
  · rfl

theorem background_output (s : State) : (background s).ppu.output = s.ppu.output := by
  unfold background
  split
  · exact fetchBackground_output _
  · rfl

theorem copyScroll_output (p : Ppu) : (copyScroll p).output = p.output := by
  unfold copyScroll
  split_ifs <;> rfl

theorem clearSecondary_output (p : Ppu) : (clearSecondary p).output = p.output := by
  unfold clearSecondary
  dsimp only
  split <;> rfl

theorem fetchSpriteLow_output (s : State) (i : Fin 8) : (fetchSpriteLow s i).ppu.output = s.ppu.output :=
  ppuRead_output s (spritePatternAddr s.ppu i)

theorem fetchSpriteHigh_output (s : State) (i : Fin 8) : (fetchSpriteHigh s i).ppu.output = s.ppu.output :=
  ppuRead_output s (spritePatternAddr s.ppu i ||| 8#14)

theorem spritePipeline_output (s : State) : (spritePipeline s).ppu.output = s.ppu.output := by
  unfold spritePipeline
  dsimp only
  split_ifs
  · rfl
  · exact clearSecondary_output s.ppu
  · rfl
  · rfl
  · exact fetchSpriteLow_output s _
  · exact fetchSpriteHigh_output s _
  · rfl
  · rfl

/-- The output of a dot is the pixel stage's after the flag events. -/
theorem ppuStep_output (s : State) : (ppuStep s).ppu.output = (pixelOutput (flagEvents s).ppu).output := by
  rw [ppuStep_eq, State.setPpu_ppu, advancePosition_kept]
  calc (dotStages (flagEvents s)).ppu.output
      = (copyScroll (background ((flagEvents s).setPpu (pixelOutput (flagEvents s).ppu))).ppu).output :=
        spritePipeline_output _
    _ = (pixelOutput (flagEvents s).ppu).output := (copyScroll_output _).trans (background_output _)

/-- No flag event lies on a visible scanline. -/
theorem flagEvents_visible {s : State} (h0 : 0 ≤ s.ppu.scanline) (h1 : s.ppu.scanline ≤ 239) : flagEvents s = s := by
  rw [flagEvents, if_neg (c := s.ppu.scanline = 241) (by omega), if_neg (c := s.ppu.scanline = -1) (by omega), ite_self]

/-! ### The pixel in integers -/

/-- A pattern value is transparent when it is 0. -/
theorem pattern_toNat_eq_zero (w : BitVec 2) : w.toNat = 0 ↔ w = 0#2 := by
  rw [← BitVec.toNat_inj]
  rfl

theorem pair_toNat (hi lo : Bool) : (pair hi lo).toNat = 2 * bitNat hi + bitNat lo := by
  revert hi lo
  decide

/-- The background's pattern value, 0 where it is not shown. -/
theorem backgroundPixel_pat (p : Ppu) :
    (backgroundPixel p).pat.toNat =
      if p.mask.getLsbD 3 = false ∨ (p.dot ≤ 8 ∧ p.mask.getLsbD 1 = false) then 0
      else 2 * bitNat (p.bgShiftHi.getLsbD (15 - p.x.toNat)) + bitNat (p.bgShiftLo.getLsbD (15 - p.x.toNat)) := by
  unfold backgroundPixel bit
  dsimp only
  by_cases hidden : p.mask.getLsbD 3 = false ∨ (p.dot ≤ 8 ∧ p.mask.getLsbD 1 = false)
  · rw [if_pos hidden, if_neg (by rcases hidden with h | ⟨h, h'⟩ <;> simp [-BitVec.getLsbD_eq_getElem, *])]
    rfl
  · rw [if_neg hidden, if_pos (by simpa [-BitVec.getLsbD_eq_getElem, imp_iff_not_or] using hidden), pair_toNat]

/-- The pattern value of a sprite slot, 0 outside its eight columns. -/
theorem slotPattern_toNat (q : SpriteSlot) (px : Nat) :
    (slotPattern q px).toNat =
      (let off := px - q.x.toNat
       let k := if q.attr.getLsbD 6 then off else 7 - off
       if q.x.toNat ≤ px ∧ off ≤ 7 then 2 * bitNat (q.patHi.getLsbD k) + bitNat (q.patLo.getLsbD k) else 0) := by
  unfold slotPattern
  dsimp only
  split
  · exact pair_toNat _ _
  · rfl

/-- The first sprite of a run of slots is found by their numbers. -/
theorem firstSprite_eq (zeroLine : Bool) (px : Nat) (slot : Fin 8 → SpriteSlot) (is : List (Fin 8)) (n : Nat)
    (numbered : is.map Fin.val = List.range' n is.length) :
    firstSprite zeroLine px n (is.map slot) =
      match is.find? fun i => decide (slotPattern (slot i) px ≠ 0#2) with
      | none => ⟨0#2, 0#2, false, false⟩
      | some i => ⟨slotPattern (slot i) px, field (slot i).attr 0 2, bit (slot i).attr 5, i.val == 0 && zeroLine⟩ := by
  induction is generalizing n with
  | nil => rfl
  | cons i is ih =>
    obtain ⟨first, rest⟩ := List.cons.inj numbered
    rw [List.map_cons, firstSprite, List.find?_cons]
    by_cases solid : slotPattern (slot i) px ≠ 0#2
    · simp only [if_pos solid, decide_eq_true solid, first]
    · simp only [if_neg solid, decide_eq_false solid, ih (n + 1) rest]

/-- The slot whose pixel is shown, if the sprites are. -/
def firstOpaque (p : Ppu) : Option (Fin 8) :=
  if p.mask.getLsbD 4 = true ∧ (8 < p.dot ∨ p.mask.getLsbD 2 = true) then
    (List.finRange 8).find? fun i => decide (slotPattern p.sprites[i] (p.dot - 1) ≠ 0#2)
  else none

/-- The sprite pixel is that slot's. -/
theorem spritePixel_eq (p : Ppu) :
    spritePixel p =
      match firstOpaque p with
      | none => ⟨0#2, 0#2, false, false⟩
      | some i => ⟨slotPattern p.sprites[i] (p.dot - 1), field p.sprites[i].attr 0 2, bit p.sprites[i].attr 5,
          i.val == 0 && p.spriteZeroLine⟩ := by
  have slots : p.sprites.toList = (List.finRange 8).map fun i => p.sprites[i] :=
    List.ext_getElem (by simp) (by simp)
  unfold spritePixel firstOpaque bit
  by_cases shown : p.mask.getLsbD 4 = true ∧ (8 < p.dot ∨ p.mask.getLsbD 2 = true)
  · rw [if_pos shown, if_pos (by simpa [-BitVec.getLsbD_eq_getElem] using shown), slots,
      firstSprite_eq _ _ _ _ 0 (by decide)]
    rfl
  · rw [if_neg shown, if_neg (by simpa [-BitVec.getLsbD_eq_getElem] using shown)]

/-- The shown slot has an opaque pixel. -/
theorem firstOpaque_ne_zero {p : Ppu} {i : Fin 8} (h : firstOpaque p = some i) :
    slotPattern p.sprites[i] (p.dot - 1) ≠ 0#2 := by
  unfold firstOpaque at h
  split at h
  · simpa using List.find?_some h
  · cases h

/-- The palette index of a pixel, in integers (R455). -/
theorem pixelIndex_eq (p : Ppu) :
    (pixelIndex (backgroundPixel p) (spritePixel p)).toNat =
      match firstOpaque p with
      | none =>
        if (backgroundPixel p).pat.toNat = 0 then 0
        else 4 * (backgroundPixel p).pal.toNat + (backgroundPixel p).pat.toNat
      | some i =>
        if (backgroundPixel p).pat.toNat = 0 ∨ p.sprites[i].attr.getLsbD 5 = false then
          16 + 4 * (p.sprites[i].attr.toNat % 4) + (slotPattern p.sprites[i] (p.dot - 1)).toNat
        else 4 * (backgroundPixel p).pal.toNat + (backgroundPixel p).pat.toNat := by
  have back : ∀ pal pat : BitVec 2, (0#1 ++ pal ++ pat).toNat = 4 * pal.toNat + pat.toNat := by decide
  have front : ∀ pal pat : BitVec 2, (1#1 ++ pal ++ pat).toNat = 16 + 4 * pal.toNat + pat.toNat := by decide
  generalize backgroundPixel p = bg
  rw [spritePixel_eq]
  cases hf : firstOpaque p with
  | none =>
    by_cases clear : bg.pat = 0#2
    · rw [if_pos ((pattern_toNat_eq_zero _).mpr clear), pixelIndex, if_pos ⟨clear, rfl⟩]
      rfl
    · rw [if_neg (mt (pattern_toNat_eq_zero _).mp clear), pixelIndex, if_neg (fun h => clear h.1), if_neg clear, if_pos (.inl rfl), back]
  | some i =>
    have solid := firstOpaque_ne_zero hf
    have pal : (field p.sprites[i].attr 0 2).toNat = p.sprites[i].attr.toNat % 4 := by
      rw [field_eq_ofNat, BitVec.toNat_ofNat]; omega
    dsimp only
    by_cases clear : bg.pat = 0#2
    · rw [if_pos (.inl ((pattern_toNat_eq_zero _).mpr clear)), pixelIndex, if_neg (fun h => solid h.2), if_pos clear, front, pal]
    · rw [pixelIndex, if_neg (fun h => clear h.1), if_neg clear]
      cases behind : p.sprites[i].attr.getLsbD 5 with
      | true =>
        rw [if_pos (.inr behind), if_neg (by simp [pattern_toNat_eq_zero, clear]), back]
      | false =>
        rw [if_neg (fun h => h.elim solid fun h => Bool.false_ne_true (behind.symm.trans h)), if_pos (.inr rfl), front, pal]

/-- The sprite-0 hit, in integers (R458). -/
theorem spriteZeroHits_eq (p : Ppu) :
    spriteZeroHits p (backgroundPixel p) (spritePixel p) =
      decide (firstOpaque p = some 0 ∧ p.spriteZeroLine = true ∧ (backgroundPixel p).pat.toNat ≠ 0 ∧
        2 ≤ p.dot ∧ p.dot ≤ 255) := by
  rw [spriteZeroHits, spritePixel_eq]
  simp only [ne_eq, pattern_toNat_eq_zero]
  cases hf : firstOpaque p with
  | none => simp
  | some i =>
    have solid := firstOpaque_ne_zero hf
    have slotZero : ∀ j : Fin 8, (j.val == 0) = decide (j = 0) := by decide
    simp only [slotZero, solid, Option.some_inj, Bool.decide_and, Bool.and_assoc, decide_true, not_false_eq_true,
      Bool.true_and, Bool.decide_eq_true]

/-- The palette's address of an index. -/
theorem paletteAddress_eq (w : BitVec 5) : 0x3F00#14 ||| w.setWidth 14 = BitVec.ofNat 14 (0x3F00 + w.toNat) := by
  revert w
  decide

/-- A visible dot. -/
def Ppu.OnScreen (p : Ppu) : Prop := 0 ≤ p.scanline ∧ p.scanline ≤ 239 ∧ 1 ≤ p.dot ∧ p.dot ≤ 256

theorem onScreen_iff (p : Ppu) :
    (p.visible && decide (1 ≤ p.dot) && decide (p.dot ≤ 256)) = true ↔ p.OnScreen := by
  simp [Ppu.visible, Ppu.OnScreen, and_assoc]

/-- The pixel stage at a visible dot (R455, R458, R460). -/
theorem pixelOutput_onScreen {p : Ppu} (h : p.OnScreen) :
    (pixelOutput p).output =
      (Cells.write p.frameBuffer (256 * p.scanline.toNat + (p.dot - 1))
        (p.mask.extractLsb' 5 3 ++ paletteRead p
          (BitVec.ofNat 14 (0x3F00 + (pixelIndex (backgroundPixel p) (spritePixel p)).toNat))),
       p.spriteZeroHit || spriteZeroHits p (backgroundPixel p) (spritePixel p)) := by
  rw [pixelOutput, if_pos ((onScreen_iff p).mpr h), ← paletteAddress_eq, Nat.mul_comm 256]
  rfl

/-- The pixel stage at any other dot. -/
theorem pixelOutput_offScreen {p : Ppu} (h : ¬p.OnScreen) : pixelOutput p = p := by
  rw [pixelOutput, if_neg (mt (onScreen_iff p).mp h)]

/-- The flag events keep the frame buffer, and move the PPU on or off no screen. -/
theorem flagEvents_screen (s : State) :
    (flagEvents s).ppu.frameBuffer = s.ppu.frameBuffer ∧ ((flagEvents s).ppu.OnScreen ↔ s.ppu.OnScreen) := by
  rw [flagEvents_eq]
  exact ⟨rfl, Iff.rfl⟩

/-- Settles O49: on the visible dots the pixel stage in integers, elsewhere nothing. -/
theorem pixelMultiplexer : Obligations.PixelMultiplexer := by
  unfold Obligations.PixelMultiplexer
  intro s p t px on x bgPat bgPal spPat first index
  have output : t.output = (pixelOutput (flagEvents s).ppu).output := ppuStep_output s
  have hbg : bgPat = (backgroundPixel p).pat.toNat := (backgroundPixel_pat p).symm
  have hpal : bgPal = (backgroundPixel p).pal.toNat := (pair_toNat _ _).symm
  have hsp (i : Fin 8) : spPat i = (slotPattern p.sprites[i] px).toNat := (slotPattern_toNat _ _).symm
  have hopaque (i : Fin 8) : decide (spPat i ≠ 0) = decide (slotPattern p.sprites[i] px ≠ 0#2) := by
    rw [decide_eq_decide, hsp, ne_eq, ne_eq, pattern_toNat_eq_zero]
  have hfirst : first = firstOpaque p :=
    if_congr Iff.rfl (congrArg ((List.finRange 8).find? ·) (funext hopaque)) rfl
  have hindex : index = (pixelIndex (backgroundPixel p) (spritePixel p)).toNat := by
    rw [pixelIndex_eq, ← hbg, ← hpal, ← hfirst]
    simp only [index, hsp]
    rfl
  have shown (h : on) : t.output = (pixelOutput p).output := by rw [output, flagEvents_visible h.1 h.2.1]
  refine ⟨fun h => ?_, fun h => ?_, fun h => ?_⟩
  · rw [hindex]
    exact congrArg Prod.fst ((shown h).trans (pixelOutput_onScreen h))
  · have hit := congrArg Prod.snd ((shown h).trans (pixelOutput_onScreen h))
    rw [spriteZeroHits_eq, ← hbg, ← hfirst] at hit
    exact hit
  · obtain ⟨kept, screen⟩ := flagEvents_screen s
    rw [pixelOutput_offScreen (mt screen.mp h)] at output
    exact (congrArg Prod.fst output).trans kept

end Sys2Proof.Machine
end
